-- ==== Sys2Proof/Word.lean ====
section
/-! DEFINITION. The words of the block: bytes, command words, response words (R7, R8, R70, R71). -/

namespace Sys2Proof

/-- A byte: an unsigned 8-bit value (R8). -/
abbrev Byte := BitVec 8

/-- A command word: 24 bits, bit 23 the most significant (R70). -/
abbrev CommandWord := BitVec 24

/-- A response word: 24 bits (R71). -/
abbrev ResponseWord := BitVec 24

end Sys2Proof
end

