-- ==== Sys2Proof/Syntax.lean ====
section
/-! DEFINITION. The fifteen host operations, one constructor per row of the opcode map (R73). -/

namespace Sys2Proof

/-- A host operation with its operands as they stand in the command word (R72, R73). -/
inductive Instr where
  /-- STRD a: read status register `a` (R151). -/
  | strd (a : Byte)
  /-- SRST: soft reset (R152). -/
  | srst
  /-- CKCLR: start a fold (R93). -/
  | ckclr
  /-- CKUPD a: fold one more byte (R94). -/
  | ckupd (a : Byte)
  /-- CKRD: read the checksum pair (R95). -/
  | ckrd
  /-- TXCLR: discard the frame being built (R100). -/
  | txclr
  /-- TXPUSH a: append one byte (R101). -/
  | txpush (a : Byte)
  /-- TXPOKE a, b: one point mutation, offset `a`, value `b` (R102). -/
  | txpoke (a b : Byte)
  /-- TXSTAMP: the checksum pair over the last two loaded bytes (R103). -/
  | txstamp
  /-- TXSEAL: length injection and appended checksum pair (R105). -/
  | txseal
  /-- TXRD a: read one loaded byte (R106). -/
  | txrd (a : Byte)
  /-- RECV: start the two-stage read (R122). -/
  | recv
  /-- RXRD a: read one byte of the validated frame (R129). -/
  | rxrd (a : Byte)
  /-- CLASSIFY: classify the validated frame (R142). -/
  | classify
  /-- EMLOOK a: look up the meaning of code `a` (R143). -/
  | emlook (a : Byte)
  deriving DecidableEq, Repr

end Sys2Proof
end

