-- ==== Sys2Proof/WellFormed.lean ====
section
/-! DEFINITION. Which operations a command word can express (R73): the only operand with a bound is the
status register number of STRD. -/

namespace Sys2Proof

/-- Status register numbers are 0 to 3; every other operand is any byte (R32, R72, R73). -/
def Instr.wellFormed : Instr → Bool
  | .strd a => decide (a.toNat < 4)
  | .srst => true
  | .ckclr => true
  | .ckupd _ => true
  | .ckrd => true
  | .txclr => true
  | .txpush _ => true
  | .txpoke _ _ => true
  | .txstamp => true
  | .txseal => true
  | .txrd _ => true
  | .recv => true
  | .rxrd _ => true
  | .classify => true
  | .emlook _ => true

end Sys2Proof
end

