-- ==== Sys2Proof/Decode.lean ====
section
/-! DEFINITION. Decoding a command word, encoding an operation, and the opcode map as a table of masks
(R70, R72, R73, R74, R76). -/

namespace Sys2Proof

/-- The `op` field, bits 23:16 (R70). -/
def opField (w : CommandWord) : Byte := w.extractLsb' 16 8

/-- The first operand field, bits 15:8 (R70). -/
def aField (w : CommandWord) : Byte := w.extractLsb' 8 8

/-- The second operand field, bits 7:0 (R70). -/
def bField (w : CommandWord) : Byte := w.extractLsb' 0 8

/-- The command word with the three fields, `op` on the most significant side (R70). -/
def commandWord (op a b : Byte) : CommandWord := op ++ a ++ b

/-- Why a word matches no row of R73. The three names are the model's (log 16); the block answers
IllegalOp for each of them (R74). -/
inductive DecodeError where
  /-- The `op` value is not in the table. -/
  | unassignedOpcode
  /-- An operand field the operation does not use is not zero. -/
  | unusedOperandNotZero
  /-- STRD with a register number above 3. -/
  | noSuchStatusRegister
  deriving DecidableEq, Repr

/-- An operation with no operand: both fields must be zero (R70, R73). -/
def decodeNone (i : Instr) (a b : Byte) : Except DecodeError Instr :=
  if a = 0 ∧ b = 0 then .ok i else .error .unusedOperandNotZero

/-- An operation with the operand `a` only: field `b` must be zero (R70, R73). -/
def decodeOne (f : Byte → Instr) (a b : Byte) : Except DecodeError Instr :=
  if b = 0 then .ok (f a) else .error .unusedOperandNotZero

/-- STRD: field `b` zero and a register number 0 to 3 (R73, R151). -/
def decodeStrd (a b : Byte) : Except DecodeError Instr :=
  if b = 0 then
    if a.toNat < 4 then .ok (.strd a) else .error .noSuchStatusRegister
  else .error .unusedOperandNotZero

/-- The decoder: `op` selects the operation (R73, R76); every other word is rejected by name (R74). -/
def decode (w : CommandWord) : Except DecodeError Instr :=
  match (opField w).toNat with
  | 0x01 => decodeStrd (aField w) (bField w)
  | 0x02 => decodeNone .srst (aField w) (bField w)
  | 0x10 => decodeNone .ckclr (aField w) (bField w)
  | 0x11 => decodeOne .ckupd (aField w) (bField w)
  | 0x12 => decodeNone .ckrd (aField w) (bField w)
  | 0x20 => decodeNone .txclr (aField w) (bField w)
  | 0x21 => decodeOne .txpush (aField w) (bField w)
  | 0x22 => .ok (.txpoke (aField w) (bField w))
  | 0x23 => decodeNone .txstamp (aField w) (bField w)
  | 0x24 => decodeNone .txseal (aField w) (bField w)
  | 0x25 => decodeOne .txrd (aField w) (bField w)
  | 0x30 => decodeNone .recv (aField w) (bField w)
  | 0x31 => decodeOne .rxrd (aField w) (bField w)
  | 0x40 => decodeNone .classify (aField w) (bField w)
  | 0x41 => decodeOne .emlook (aField w) (bField w)
  | _ => .error .unassignedOpcode

/-- The command word of an operation (R70, R73). -/
def encode : Instr → CommandWord
  | .strd a => commandWord 0x01 a 0x00
  | .srst => commandWord 0x02 0x00 0x00
  | .ckclr => commandWord 0x10 0x00 0x00
  | .ckupd a => commandWord 0x11 a 0x00
  | .ckrd => commandWord 0x12 0x00 0x00
  | .txclr => commandWord 0x20 0x00 0x00
  | .txpush a => commandWord 0x21 a 0x00
  | .txpoke a b => commandWord 0x22 a b
  | .txstamp => commandWord 0x23 0x00 0x00
  | .txseal => commandWord 0x24 0x00 0x00
  | .txrd a => commandWord 0x25 a 0x00
  | .recv => commandWord 0x30 0x00 0x00
  | .rxrd a => commandWord 0x31 a 0x00
  | .classify => commandWord 0x40 0x00 0x00
  | .emlook a => commandWord 0x41 a 0x00

/-- The mnemonic of an operation, as R73 spells it. -/
def Instr.mnemonic : Instr → String
  | .strd _ => "STRD"
  | .srst => "SRST"
  | .ckclr => "CKCLR"
  | .ckupd _ => "CKUPD"
  | .ckrd => "CKRD"
  | .txclr => "TXCLR"
  | .txpush _ => "TXPUSH"
  | .txpoke _ _ => "TXPOKE"
  | .txstamp => "TXSTAMP"
  | .txseal => "TXSEAL"
  | .txrd _ => "TXRD"
  | .recv => "RECV"
  | .rxrd _ => "RXRD"
  | .classify => "CLASSIFY"
  | .emlook _ => "EMLOOK"

/-- One row of the opcode map: a word is of the row when `word & mask == pattern` (R73). -/
structure OpcodeRow where
  mnemonic : String
  pattern : CommandWord
  mask : CommandWord
  deriving DecidableEq, Repr

/-- The test of R73. -/
def OpcodeRow.accepts (r : OpcodeRow) (w : CommandWord) : Bool := w &&& r.mask == r.pattern

/-- The match and mask columns of R73, row by row. The decoder does not read this table: that the two agree
is a statement about them. -/
def opcodeTable : List OpcodeRow :=
  [⟨"STRD", 0x010000, 0xFFFCFF⟩, ⟨"SRST", 0x020000, 0xFFFFFF⟩,
   ⟨"CKCLR", 0x100000, 0xFFFFFF⟩, ⟨"CKUPD", 0x110000, 0xFF00FF⟩, ⟨"CKRD", 0x120000, 0xFFFFFF⟩,
   ⟨"TXCLR", 0x200000, 0xFFFFFF⟩, ⟨"TXPUSH", 0x210000, 0xFF00FF⟩, ⟨"TXPOKE", 0x220000, 0xFF0000⟩,
   ⟨"TXSTAMP", 0x230000, 0xFFFFFF⟩, ⟨"TXSEAL", 0x240000, 0xFFFFFF⟩, ⟨"TXRD", 0x250000, 0xFF00FF⟩,
   ⟨"RECV", 0x300000, 0xFFFFFF⟩, ⟨"RXRD", 0x310000, 0xFF00FF⟩,
   ⟨"CLASSIFY", 0x400000, 0xFFFFFF⟩, ⟨"EMLOOK", 0x410000, 0xFF00FF⟩]

/-- The word whose bits are `w`, of which the table gives `nbits`; the bits above them are 0 (log 2). -/
def tableWord (nbits w : Nat) : CommandWord := BitVec.ofNat 24 (w % 2 ^ nbits)

/-- The operation the decoder reads from the word whose bits are `w`, numbered as the opcode table
numbers them. -/
def decodeTableWord (nbits w : Nat) : Option Instr :=
  match decode (tableWord nbits w) with
  | .ok i => some i
  | .error _ => none

end Sys2Proof
end

