-- ==== Sys2Proof/Config.lean ====
section
/-! DEFINITION. The parameters of the block (R7). It has no free value: no rule leaves a result open. -/

namespace Sys2Proof.Config

/-- SOF, the byte every frame the document shows begins with (R7, R17). The block never tests it (R107, R127). -/
def sof : Byte := 0x01

/-- BUFDEPTH and MAXFRAME: 255 bytes, indices 0 to 254 (R7, R24, R28). -/
abbrev bufDepth : Nat := 255

/-- The longest body of loaded bytes that TXSEAL accepts: its two checksum bytes must fit (R105). -/
abbrev maxUnsealed : Nat := 253

/-- MINFRAME_RX: the shortest frame the parser processes, and the fewest bytes that can be stamped or
sealed (R7, R103, R105, R124). -/
abbrev minFrame : Nat := 2

/-- The number of header bytes the first read of RECV asks for (R122). -/
abbrev headerBytes : Nat := 2

/-- What a buffer byte that memory does not list reads as. DESIGN CHOICE, unsafe (log 8): R25 and R29 leave
such bytes unspecified and unobservable. -/
def unlistedByte : Byte := 0x00

end Sys2Proof.Config
end

