-- ==== Sys2Proof/Machine/State.lean ====
section
/-! DEFINITION. The state of the block (R20), the channels it is driven through (R15, R16), its reset value
(R210), and the reasons a step can stop. -/

namespace Sys2Proof.Machine

/-- The stage of the two-stage read (R33, R120). The encoding 3 never occurs (R20, R37), so it is no
constructor (log 10). -/
inductive RxState where
  /-- No receive is in progress. -/
  | idle
  /-- The 2-byte read request is outstanding. -/
  | hdr
  /-- The `length - 2` byte read request is outstanding. -/
  | body
  deriving DecidableEq, Repr

/-- The status codes a response word carries (R75, R190); their numbers are `StatusCode.code`. -/
inductive StatusCode where
  | ok
  | noReply
  | checksumMismatch
  | illegalOp
  | badOffset
  | frameTooLong
  | frameTooShort
  | badLength
  | noFrame
  deriving DecidableEq, Repr

/-- What reaches the block from outside the command channel. -/
inductive External where
  /-- RDRSP(r): the transport's answer to a read request (R13, R121). -/
  | reply (r : List Byte)
  /-- The hard reset input (R210, R212). -/
  | hardReset
  deriving DecidableEq, Repr

/-- One input of the block (R15, R60, R121, R210). -/
inductive Input where
  /-- A command word the host presents on the command channel. -/
  | command (w : CommandWord)
  /-- An event from the transport or the reset input. -/
  | external (e : External)
  deriving DecidableEq, Repr

/-- A buffer: the listed bytes, addresses strictly rising, none equal to what an unlisted address reads as
(the form is `Memory.wf`). -/
abbrev Memory := List Host.Cell

/-- The whole state of the block (R20), and the model's record of its four channels (log 1, log 3). -/
structure State where
  /-- ACC: the XOR accumulator (R20, R23). -/
  acc : Byte
  /-- TXB: the frame being built (R24). -/
  txb : Memory
  /-- TXLEN: the number of bytes loaded in TXB (R24). -/
  txlen : Byte
  /-- TXVALID: the last two loaded bytes are the pair of the latest stamp or seal (R26). -/
  txvalid : Bool
  /-- RXB: the frame being received or last received (R28). -/
  rxb : Memory
  /-- RXLEN: the length of the validated frame (R28). -/
  rxlen : Byte
  /-- RXVALID: RXB holds a frame that passed verification (R28). -/
  rxvalid : Bool
  /-- RXSTATE: the parser stage (R33). -/
  rxstate : RxState
  /-- ECODE: the code of the latest classification (R34). -/
  ecode : Byte
  /-- EMEAN: its meaning index (R34). -/
  emean : BitVec 4
  /-- ESHORT: it took the 10-byte shape (R34). -/
  eshort : Bool
  /-- EVALID: ECODE, EMEAN and ESHORT describe the frame now in RXB (R34). -/
  evalid : Bool
  /-- What the host, the transport and the reset input present to the block, oldest first (log 1). -/
  inputs : List Input
  /-- The response words delivered, oldest first (R16, R71; log 3). -/
  responses : List ResponseWord
  /-- The read requests RDREQ(n) emitted, oldest first (R13, R16; log 3). -/
  requests : List Nat
  deriving DecidableEq, Repr

/-- The reasons the model stops with a fault. No fault of the spec is one of them: those are response
words, after which the block goes on (R194, R195). -/
inductive Fault where
  /-- Raised by the body-reply step when RXSTATE is BODY and the length byte in RXB is below 2. The header
  step never leaves such a state (R123), so no run raises it, and the rules give it no meaning.
  Safe (log 9). -/
  | bodyLengthBelowTwo
  deriving DecidableEq, Repr

/-- The reasons the model gives no meaning to a step. -/
inductive Refusal where
  /-- An operation that has no meaning yet. No arm of `exec` raises it. Safe. -/
  | notModelled (mnemonic : String)
  /-- Raised by a reply step when the reply is longer than the request asked for: outside the transport's
  contract, and a model must refuse it rather than truncate it (R121, U3). Safe (log 6). -/
  | overlongReply
  /-- Raised by a step when a read request is outstanding and the inputs hold neither a reply nor a hard
  reset: the transport answers every request (R121, R130, U5). Safe (log 5). -/
  | unansweredRequest
  deriving DecidableEq, Repr

/-- The state right after hard reset (R210). The buffers are unspecified there: they list nothing (log 8).
The channels are empty (log 2, log 3). -/
def State.reset : State where
  acc := 0x00
  txb := []
  txlen := 0
  txvalid := false
  rxb := []
  rxlen := 0
  rxvalid := false
  rxstate := .idle
  ecode := 0x00
  emean := 0x0
  eshort := false
  evalid := false
  inputs := []
  responses := []
  requests := []

end Sys2Proof.Machine
end

