-- ==== Sys2Proof/Machine/Flags.lean ====
section
/-! DEFINITION. The flags and how status registers and responses pack them (R31, R32, R142, R151). -/

namespace Sys2Proof.Machine

/-- Status register 0: bit 0 TXVALID, bit 1 RXVALID, bit 2 EVALID, bits 7:3 zero (R32, R151). -/
def statusByte (evalid rxvalid txvalid : Bool) : Byte :=
  0#5 ++ BitVec.ofBool evalid ++ BitVec.ofBool rxvalid ++ BitVec.ofBool txvalid

/-- The upper byte of a classification: bit 7 the short shape, bits 6:4 zero, bits 3:0 the meaning index
(R32, R142, R151). -/
def resultByte (short : Bool) (mean : BitVec 4) : Byte :=
  BitVec.ofBool short ++ 0#3 ++ mean

end Sys2Proof.Machine
end

