-- ==== Sys2Proof/Machine/Operands.lean ====
section
/-! DEFINITION. Operand forms and the response word (R71, R72, R75). -/

namespace Sys2Proof.Machine

/-- The number of a status code (R75). -/
def StatusCode.code : StatusCode → Byte
  | .ok => 0x00
  | .noReply => 0x01
  | .checksumMismatch => 0x02
  | .illegalOp => 0x10
  | .badOffset => 0x11
  | .frameTooLong => 0x12
  | .frameTooShort => 0x13
  | .badLength => 0x14
  | .noFrame => 0x15

/-- The response word `{code, d1, d0}` (R71). -/
def responseWord (code d1 d0 : Byte) : ResponseWord := code ++ d1 ++ d0

/-- The word of `respond OK(d1, d0)` (R12). -/
def okWord (d1 d0 : Byte) : ResponseWord := responseWord StatusCode.ok.code d1 d0

/-- The word of `raise c`: both data bytes are zero (R12, R71, R194). -/
def faultWord (c : StatusCode) : ResponseWord := responseWord c.code 0x00 0x00

/-- An offset operand is below a buffer length, both unsigned (R51, R72). -/
def offsetBelow (a len : Byte) : Bool := decide (a.toNat < len.toNat)

end Sys2Proof.Machine
end

