-- ==== Sys2Proof/Machine/Ops.lean ====
section
/-! DEFINITION. The named operations over buffers, registers and channels that the meanings share. -/

namespace Sys2Proof.Machine

/-! Buffers (R24, R28, R50, R51). -/

/-- The byte at an index; an index the buffer does not list reads as `Config.unlistedByte` (log 8). -/
def Memory.read : Memory → Nat → Byte
  | [], _ => Config.unlistedByte
  | (b, w) :: m, a => if a = b then w else Memory.read m a

/-- Put `v` at index `a` and keep the form: rising indices, no byte that an unlisted index reads as. -/
def Memory.write : Memory → Nat → Byte → Memory
  | [], a, v => if v = Config.unlistedByte then [] else [(a, v)]
  | (b, w) :: m, a, v =>
    if a < b then if v = Config.unlistedByte then (b, w) :: m else (a, v) :: (b, w) :: m
    else if a = b then if v = Config.unlistedByte then m else (a, v) :: m
    else (b, w) :: Memory.write m a v

/-- Put the bytes one after the other from index `a` on. -/
def Memory.writeList : Memory → Nat → List Byte → Memory
  | m, _, [] => m
  | m, a, v :: vs => Memory.writeList (Memory.write m a v) (a + 1) vs

/-- The half-open slice of indices `lo` to `hi - 1` (R9). -/
def Memory.slice (m : Memory) (lo hi : Nat) : List Byte :=
  (List.range' lo (hi - lo)).map (Memory.read m)

/-- The form of a buffer from index `lo` on: indices rising and below 255, no unlisted value. -/
def Memory.wfFrom : Nat → Memory → Bool
  | _, [] => true
  | lo, (a, v) :: m =>
    decide (lo ≤ a) && decide (a < Config.bufDepth) && decide (v ≠ Config.unlistedByte) && Memory.wfFrom (a + 1) m

/-- The canonical form of a buffer: equal contents are equal lists. -/
def Memory.wf (m : Memory) : Bool := Memory.wfFrom 0 m

/-! The checksum functions (R90, R91). -/

/-- The XOR of all bytes of a sequence; 0x00 for the empty one (R90). -/
def fold (s : List Byte) : Byte := s.foldl (fun c x => c ^^^ x) 0x00

/-- The checksum pair: the fold and its complement, in wire order (R91). -/
def pair (s : List Byte) : Byte × Byte := (fold s, fold s ^^^ 0xFF)

/-- Write the pair of `chk` at `n` and `n + 1`, `chk` first (R52, R91). -/
def Memory.writePair (m : Memory) (n : Nat) (chk : Byte) : Memory :=
  Memory.write (Memory.write m n chk) (n + 1) (chk ^^^ 0xFF)

/-! The channels (R12, R13). -/

/-- Deliver a response word. -/
def State.addResponse (s : State) (w : ResponseWord) : State :=
  { s with responses := s.responses ++ [w] }

/-- `emit RDREQ(n)` (R13). -/
def State.addRequest (s : State) (n : Nat) : State :=
  { s with requests := s.requests ++ [n] }

/-- `respond OK(d1, d0)` (R12). -/
def respond (d1 d0 : Byte) (s : State) : Host.Outcome State Fault Refusal :=
  .next (s.addResponse (okWord d1 d0))

/-- `raise c`, the whole of a fault's entry: the response word `{code, 0, 0}` and nothing else. No state is
saved, nothing is latched, control goes nowhere, and there is no return from it (R12, R193, R194, R195). -/
def raise (c : StatusCode) (s : State) : Host.Outcome State Fault Refusal :=
  .next (s.addResponse (faultWord c))

/-! Registers (R122, R152, R210). -/

/-- The received frame and its classification are discarded (R34, R122). -/
def State.discardFrame (s : State) : State :=
  { s with
    rxvalid := false, rxlen := 0
    evalid := false, ecode := 0x00, emean := 0x0, eshort := false }

/-- Every register takes its reset value; the buffers keep their bytes and the channels are not touched
(R152, R210; log 11). -/
def State.resetRegisters (s : State) : State :=
  { s with
    acc := 0x00
    txlen := 0, txvalid := false
    rxlen := 0, rxvalid := false, rxstate := .idle
    ecode := 0x00, emean := 0x0, eshort := false, evalid := false }

/-! Which input is taken next (R60, R61, R130, R212). -/

/-- The oldest external event, and the inputs without it; the commands keep their places. -/
def firstExternal : List Input → Option (Input × List Input)
  | [] => none
  | .external e :: rest => some (.external e, rest)
  | .command w :: rest =>
    match firstExternal rest with
    | none => none
    | some (x, rest') => some (x, .command w :: rest')

/-- With RXSTATE IDLE the oldest input; otherwise the command channel is held, so the oldest external
event (R130; log 1). -/
def nextInput : RxState → List Input → Option (Input × List Input)
  | .idle, [] => none
  | .idle, x :: rest => some (x, rest)
  | .hdr, l => firstExternal l
  | .body, l => firstExternal l

/-- No input can be taken: an idle block stays as it is (R210; log 4), a waiting one is outside the model
(R121, R130; log 5). -/
def noInput (s : State) : Host.Outcome State Fault Refusal :=
  match s.rxstate with
  | .idle => .next s
  | .hdr => .refused .unansweredRequest
  | .body => .refused .unansweredRequest

/-- A word that matches no row: IllegalOp, no state change (R74). -/
def illegalCommand (s : State) : Host.Outcome State Fault Refusal := raise .illegalOp s

/-- Present a word where the next step takes its command: at the front of the inputs, with the command
channel not held. -/
def State.presentCommand (s : State) (w : CommandWord) : State :=
  { s with inputs := .command w :: s.inputs, rxstate := .idle }

end Sys2Proof.Machine
end

