-- ==== Sys2Proof/Machine/Checksum.lean ====
section
/-! DEFINITION. The checksum unit CSU: CKCLR, CKUPD, CKRD (R93 to R96). -/

namespace Sys2Proof.Machine

/-- CKCLR: start a fold (R93). -/
def execCkclr (s : State) : Host.Outcome State Fault Refusal :=
  respond 0x00 0x00 { s with acc := 0x00 }

/-- CKUPD a: fold one more byte and answer the new accumulator (R94). -/
def execCkupd (a : Byte) (s : State) : Host.Outcome State Fault Refusal :=
  respond 0x00 (s.acc ^^^ a) { s with acc := s.acc ^^^ a }

/-- CKRD: answer the pair of the accumulator; no state changes (R95). -/
def execCkrd (s : State) : Host.Outcome State Fault Refusal :=
  respond s.acc (s.acc ^^^ 0xFF) s

end Sys2Proof.Machine
end

