-- ==== Sys2Proof/Machine/ErrorDecoder.lean ====
section
/-! DEFINITION. The error decoder unit EDU: the code table, CLASSIFY, EMLOOK (R140 to R143). -/

namespace Sys2Proof.Machine

/-- The meaning index of a code; 0xF for a code that is not in the table (R141). -/
def meaningIndex (code : Byte) : BitVec 4 :=
  match code.toNat with
  | 0x00 => 0x0
  | 0x02 => 0x1
  | 0x03 => 0x2
  | 0x0F => 0x3
  | 0x10 => 0x4
  | 0x11 => 0x5
  | 0x12 => 0x6
  | 0x13 => 0x7
  | 0x14 => 0x8
  | 0x15 => 0x9
  | _ => 0xF

/-- The meaning string of a code, which the host renders; no step reads it (R21, R141; the default stands
without a full stop, 90_conflicts.md C2). -/
def meaningString (code : Byte) : String :=
  match code.toNat with
  | 0x00 => "OK"
  | 0x02 => "Command not supported"
  | 0x03 => "Option not supported"
  | 0x0F => "Error with no information given"
  | 0x10 => "Specified block is not available"
  | 0x11 => "Block already locked"
  | 0x12 => "Block is locked, content cannot be changed"
  | 0x13 => "Block not successfully programmed"
  | 0x14 => "Block not successfully locked"
  | 0x15 => "Block is read-protected"
  | _ => "Unknown error code"

/-- The code and the shape flag CLASSIFY takes from RXB, by the first matching case (R142). -/
def classifyRegisters (s : State) : Byte × Bool :=
  if s.rxlen.toNat = 11 ∧ Memory.read s.rxb 7 = 0x01 then (Memory.read s.rxb 8, false)
  else if s.rxlen.toNat = 10 ∧ Memory.read s.rxb 5 = 0x01 then (Memory.read s.rxb 7, true)
  else (0x00, false)

/-- A classification is latched and answered; a non-zero code is data, so the status is OK (R142, R144). -/
def latchResult (code : Byte) (short : Bool) (s : State) : Host.Outcome State Fault Refusal :=
  respond (resultByte short (meaningIndex code)) code
    { s with ecode := code, emean := meaningIndex code, eshort := short, evalid := true }

/-- CLASSIFY: classify the validated frame (R142). -/
def execClassify (s : State) : Host.Outcome State Fault Refusal :=
  if s.rxvalid then latchResult (classifyRegisters s).1 (classifyRegisters s).2 s
  else raise .noFrame s

/-- EMLOOK a: the meaning index of a code, without a frame (R143). -/
def execEmlook (a : Byte) (s : State) : Host.Outcome State Fault Refusal :=
  respond (resultByte false (meaningIndex a)) a s

end Sys2Proof.Machine
end

