-- ==== Sys2Proof/Machine/FrameBuilder.lean ====
section
/-! DEFINITION. The frame builder unit FBU: TXCLR, TXPUSH, TXPOKE, TXSTAMP, TXSEAL, TXRD (R100 to R106). -/

namespace Sys2Proof.Machine

/-- TXCLR: discard the frame in TXB; its bytes are not erased (R100). -/
def execTxclr (s : State) : Host.Outcome State Fault Refusal :=
  respond 0x00 0x00 { s with txlen := 0, txvalid := false }

/-- TXPUSH a: append one byte and answer the new TXLEN (R101). -/
def execTxpush (a : Byte) (s : State) : Host.Outcome State Fault Refusal :=
  if s.txlen.toNat = Config.bufDepth then raise .frameTooLong s
  else
    respond 0x00 (s.txlen + 1)
      { s with txb := Memory.write s.txb s.txlen.toNat a, txlen := s.txlen + 1, txvalid := false }

/-- TXPOKE a, b: one point mutation of a loaded byte (R102). -/
def execTxpoke (a b : Byte) (s : State) : Host.Outcome State Fault Refusal :=
  if offsetBelow a s.txlen then
    respond 0x00 0x00 { s with txb := Memory.write s.txb a.toNat b, txvalid := false }
  else raise .badOffset s

/-- The end of a stamp and of a seal: the pair of `chk` goes to `n` and `n + 1` of the buffer, ACC takes
`chk`, TXVALID is set and the pair is answered (R103, R105). -/
def finishFrame (n : Nat) (chk : Byte) (s : State) : Host.Outcome State Fault Refusal :=
  respond chk (chk ^^^ 0xFF)
    { s with txb := Memory.writePair s.txb n chk, acc := chk, txvalid := true }

/-- TXSTAMP: the pair of all loaded bytes but the last two goes over those two; TXLEN stays and the length
byte is neither read nor written (R103, R104). -/
def execTxstamp (s : State) : Host.Outcome State Fault Refusal :=
  if s.txlen.toNat < Config.minFrame then raise .frameTooShort s
  else
    finishFrame (s.txlen.toNat - 2) (fold (Memory.slice s.txb 0 (s.txlen.toNat - 2))) s

/-- The buffer with the total size at byte 1 (R105). -/
def injectLength (s : State) : Memory := Memory.write s.txb 1 (s.txlen + 2)

/-- TXSEAL: the total size goes to byte 1, the pair of all bytes with that length in place is appended
(R105). -/
def execTxseal (s : State) : Host.Outcome State Fault Refusal :=
  if s.txlen.toNat < Config.minFrame then raise .frameTooShort s
  else if Config.maxUnsealed < s.txlen.toNat then raise .frameTooLong s
  else
    finishFrame s.txlen.toNat (fold (Memory.slice (injectLength s) 0 s.txlen.toNat))
      { s with txb := injectLength s, txlen := s.txlen + 2 }

/-- TXRD a: answer one loaded byte, whatever TXVALID is (R27, R106). -/
def execTxrd (a : Byte) (s : State) : Host.Outcome State Fault Refusal :=
  if offsetBelow a s.txlen then respond 0x00 (Memory.read s.txb a.toNat) s
  else raise .badOffset s

end Sys2Proof.Machine
end

