-- ==== Sys2Proof/Machine/ResponseParser.lean ====
section
/-! DEFINITION. The response parser unit RPU: RECV with its two reply steps, hard reset and late replies,
RXRD (R120 to R132, R212). -/

namespace Sys2Proof.Machine

/-- RECV, issue step: the previous frame is discarded and two header bytes are requested; the response
comes from a later step (R120, R122). -/
def execRecv (s : State) : Host.Outcome State Fault Refusal :=
  .next ({ s.discardFrame with rxstate := .hdr }.addRequest Config.headerBytes)

/-- The end of a receive without a frame: RXSTATE returns to IDLE and the fault is answered (R120). -/
def failReceive (c : StatusCode) (s : State) : Host.Outcome State Fault Refusal :=
  raise c { s with rxstate := .idle }

/-- The header bytes go to RXB[0] and RXB[1] (R123). -/
def storeHeader (sof len : Byte) (s : State) : State :=
  { s with rxb := Memory.write (Memory.write s.rxb 0 sof) 1 len }

/-- Header-reply step, on RDRSP(r) with RXSTATE HDR (R123, R124). The first byte is not tested (R127). -/
def headerReply (r : List Byte) (s : State) : Host.Outcome State Fault Refusal :=
  match r with
  | [] => failReceive .noReply s
  | [_] => failReceive .noReply s
  | [sof, len] =>
    if len.toNat < Config.minFrame then failReceive .badLength (storeHeader sof len s)
    else .next ({ storeHeader sof len s with rxstate := .body }.addRequest (len.toNat - 2))
  | _ :: _ :: _ :: _ => .refused .overlongReply

/-- The assembled frame is verified: `chk` at offset `len - 2` against the fold of all bytes before it, the
sole integrity check; the last byte is not compared (R125, R126, R128). -/
def verifyFrame (len : Byte) (s : State) : Host.Outcome State Fault Refusal :=
  let c := fold (Memory.slice s.rxb 0 (len.toNat - 2))
  if c = Memory.read s.rxb (len.toNat - 2) then
    respond 0x00 len { s with acc := c, rxlen := len, rxvalid := true, rxstate := .idle }
  else failReceive .checksumMismatch { s with acc := c }

/-- Body-reply step, on RDRSP(r) with RXSTATE BODY (R125). -/
def bodyReply (r : List Byte) (s : State) : Host.Outcome State Fault Refusal :=
  let len := Memory.read s.rxb 1
  if len.toNat < Config.minFrame then .fault .bodyLengthBelowTwo
  else if len.toNat - 2 < r.length then .refused .overlongReply
  else if r.length < len.toNat - 2 then failReceive .noReply s
  else verifyFrame len { s with rxb := Memory.writeList s.rxb 2 r }

/-- The step an external event makes. A hard reset resets every register whatever RXSTATE is and answers
nothing (R210, R212). A reply goes to the step RXSTATE names; with RXSTATE IDLE it has no step and the block
ignores it (R212, U4; log 7). -/
def externalStep (e : External) (s : State) : Host.Outcome State Fault Refusal :=
  match e with
  | .hardReset => .next s.resetRegisters
  | .reply r =>
    match s.rxstate with
    | .idle => .next s
    | .hdr => headerReply r s
    | .body => bodyReply r s

/-- RXRD a: answer one byte of the validated frame; NoFrame before BadOffset (R129). -/
def execRxrd (a : Byte) (s : State) : Host.Outcome State Fault Refusal :=
  if s.rxvalid then
    if offsetBelow a s.rxlen then respond 0x00 (Memory.read s.rxb a.toNat) s
    else raise .badOffset s
  else raise .noFrame s

end Sys2Proof.Machine
end

