-- ==== Sys2Proof/Machine/System.lean ====
section
/-! DEFINITION. The system operations STRD and SRST (R150 to R152). -/

namespace Sys2Proof.Machine

/-- STRD a: read a status register; a number above 3 is IllegalOp (R32, R151; log 15). -/
def execStrd (a : Byte) (s : State) : Host.Outcome State Fault Refusal :=
  match a.toNat with
  | 0 => respond 0x00 (statusByte s.evalid s.rxvalid s.txvalid) s
  | 1 => respond 0x00 s.txlen s
  | 2 => respond 0x00 s.rxlen s
  | 3 => respond (resultByte s.eshort s.emean) s.ecode s
  | _ => raise .illegalOp s

/-- SRST: every register takes its reset value (R152, R210). -/
def execSrst (s : State) : Host.Outcome State Fault Refusal :=
  respond 0x00 0x00 s.resetRegisters

end Sys2Proof.Machine
end

