-- ==== Sys2Proof/Machine/Dispatch.lean ====
section
/-! DEFINITION. One arm per operation (R73). -/

namespace Sys2Proof.Machine

def exec (i : Instr) (s : State) : Host.Outcome State Fault Refusal :=
  match i with
  | .strd a => Sys2Proof.Machine.execStrd a s
  | .srst => Sys2Proof.Machine.execSrst s
  | .ckclr => Sys2Proof.Machine.execCkclr s
  | .ckupd a => Sys2Proof.Machine.execCkupd a s
  | .ckrd => Sys2Proof.Machine.execCkrd s
  | .txclr => Sys2Proof.Machine.execTxclr s
  | .txpush a => Sys2Proof.Machine.execTxpush a s
  | .txpoke a b => Sys2Proof.Machine.execTxpoke a b s
  | .txstamp => Sys2Proof.Machine.execTxstamp s
  | .txseal => Sys2Proof.Machine.execTxseal s
  | .txrd a => Sys2Proof.Machine.execTxrd a s
  | .recv => Sys2Proof.Machine.execRecv s
  | .rxrd a => Sys2Proof.Machine.execRxrd a s
  | .classify => Sys2Proof.Machine.execClassify s
  | .emlook a => Sys2Proof.Machine.execEmlook a s

end Sys2Proof.Machine
end

