-- ==== Sys2Proof/Machine/Command.lean ====
section
/-! DEFINITION. What the block does with one command word (R60, R74). -/

namespace Sys2Proof.Machine

/-- A command word is decoded and its operation executed; a word that matches no row is answered IllegalOp
(R73, R74). -/
def runCommand (w : CommandWord) (s : State) : Host.Outcome State Fault Refusal :=
  match decode w with
  | .ok i => exec i s
  | .error _ => illegalCommand s

end Sys2Proof.Machine
end

