-- ==== Sys2Proof/Machine/Step.lean ====
section
/-! DEFINITION. One step of the block: take the next input and do what it asks (R15, R60, R74, R130). -/

namespace Sys2Proof.Machine

/-- One step. A command word is run; an external event makes its own step; without an input to take, `noInput`. -/
def step (s : State) : Host.Outcome State Fault Refusal :=
  match nextInput s.rxstate s.inputs with
  | none => noInput s
  | some (.external e, rest) => externalStep e { s with inputs := rest }
  | some (.command w, rest) => runCommand w { s with inputs := rest }

/-- `s` with the command word whose bits are `w` presented so that the very next step runs it (log 2). -/
def State.withFetchWord (s : State) (nbits w : Nat) : State := s.presentCommand (tableWord nbits w)

/-- `k` steps, stopping at the first fault or refusal. -/
def steps : Nat → State → Host.Outcome State Fault Refusal
  | 0, s => .next s
  | k + 1, s =>
    match step s with
    | .next t => steps k t
    | .fault r => .fault r
    | .refused r => .refused r

end Sys2Proof.Machine
end

