-- ==== Sys2Proof/Machine/Functions.lean ====
section
/-! DEFINITION. The document's functions over byte sequences, which the operations realise (R78, R79, R80,
R103, R105, R121, R131, R140), apart from `fold` and `pair`, which stand with the shared operations. -/

namespace Sys2Proof.Machine

/-! Building (R78, R103, R105). -/

/-- Point mutations in list order; none where an offset lies outside the template (R102; log 17). -/
def applyMutations : List Byte → List (Byte × Byte) → Option (List Byte)
  | t, [] => some t
  | t, (a, b) :: ms => if a.toNat < t.length then applyMutations (t.set a.toNat b) ms else none

/-- The pair over the last two bytes (R103). None below 2 and above 255 bytes, where the document gives
`build_fixed` no value (U16): the model's choice (log 17). -/
def stampBytes (t : List Byte) : Option (List Byte) :=
  if t.length < Config.minFrame ∨ Config.bufDepth < t.length then none
  else
    let covered := t.take (t.length - 2)
    some (covered ++ [(pair covered).1, (pair covered).2])

/-- `build_fixed(template, mutations)` (R78, R103). None for an offset outside the template and for a template
below 2 or above 255 bytes (U16; log 17). -/
def buildFixed (template : List Byte) (mutations : List (Byte × Byte)) : Option (List Byte) :=
  match applyMutations template mutations with
  | none => none
  | some t => stampBytes t

/-- `build_envelope(header, payload)`: concatenation, total size at byte 1, appended pair (R78, R105); none
outside 2 to 253 bytes (U16; log 17). -/
def buildEnvelope (header payload : List Byte) : Option (List Byte) :=
  let n := (header ++ payload).length
  if n < Config.minFrame ∨ Config.maxUnsealed < n then none
  else
    let covered := (header ++ payload).set 1 (BitVec.ofNat 8 (n + 2))
    some (covered ++ [(pair covered).1, (pair covered).2])

/-- A well-formed CommandFrame: SOF, its own length at byte 1, the checksum pair at the end (R79). -/
def IsCommandFrame (f : List Byte) : Prop :=
  f[0]? = some Config.sof ∧ f[1]? = some (BitVec.ofNat 8 f.length) ∧ f.length ≤ Config.bufDepth ∧
    ∃ covered, f = covered ++ [(pair covered).1, (pair covered).2]

/-- The nine leading bytes of an IsoEnvelope; the length is a placeholder, and the reader-config byte, the
tag-flags byte and the ISO command code are the host's (R80). No operation reads this layout. -/
def isoHeader (config flags command : Byte) : List Byte :=
  [Config.sof, 0x00, 0x00, 0x00, 0x00, 0x60, config, flags, command]

/-! Receiving (R121, R131). -/

/-- `read_response(r1, r2)`: the two replies to the frame or the fault, tests in the order of their priority
(R131). -/
def readResponse (r1 r2 : List Byte) : Except StatusCode (List Byte) :=
  match r1 with
  | sof :: len :: _ =>
    if len.toNat < Config.minFrame then .error .badLength
    else if r2.length < len.toNat - 2 then .error .noReply
    else
      let f := sof :: len :: r2.take (len.toNat - 2)
      if fold (f.take (len.toNat - 2)) = f.getD (len.toNat - 2) 0x00 then .ok f
      else .error .checksumMismatch
  | _ => .error .noReply

/-- A transport read of at most `n` bytes, of which `arrived` came within the timeout: the reply, from the
front of the stream, and the stream without it (R121; log 13, log 18). -/
def transportRead (stream : List Byte) (n arrived : Nat) : List Byte × List Byte :=
  (stream.take (min n arrived), stream.drop (min n arrived))

/-! Classifying (R140). -/

/-- `classify(F)`: the code and the shape flag, by the first matching case (R140). -/
def classify (f : List Byte) : Byte × Bool :=
  if f.length = 11 ∧ f.getD 7 0x00 = 0x01 then (f.getD 8 0x00, false)
  else if f.length = 10 ∧ f.getD 5 0x00 = 0x01 then (f.getD 7 0x00, true)
  else (0x00, false)

/-- The frame loaded in TXB (R24, R52). -/
def State.txFrame (s : State) : List Byte := Memory.slice s.txb 0 s.txlen.toNat

/-- The first RXLEN bytes of RXB: the validated frame when RXVALID is 1 (R28). -/
def State.rxFrame (s : State) : List Byte := Memory.slice s.rxb 0 s.rxlen.toNat

end Sys2Proof.Machine
end

