-- ==== Sys2Proof/Machine/Sequences.lean ====
section
/-! DEFINITION. The operation sequences that realise the document's functions (R78). -/

namespace Sys2Proof.Machine

/-- The meanings of a list of operations, one after the other (R60). -/
def execAll : List Instr → State → Host.Outcome State Fault Refusal
  | [], s => .next s
  | i :: is, s =>
    match exec i s with
    | .next t => execAll is t
    | .fault r => .fault r
    | .refused r => .refused r

/-- `fold(s)` and `pair(s)`: CKCLR, CKUPD of each byte, CKRD (R78). -/
def foldSequence (bytes : List Byte) : List Instr := .ckclr :: (bytes.map .ckupd ++ [.ckrd])

/-- TXCLR and TXPUSH of each byte: the start of either build (R78). -/
def loadSequence (bytes : List Byte) : List Instr := .txclr :: bytes.map .txpush

/-- `build_fixed` (R78). -/
def buildFixedSequence (template : List Byte) (mutations : List (Byte × Byte)) : List Instr :=
  loadSequence template ++ (mutations.map (fun m => .txpoke m.1 m.2) ++ [.txstamp])

/-- `build_envelope` (R78). -/
def buildEnvelopeSequence (header payload : List Byte) : List Instr :=
  loadSequence (header ++ payload) ++ [.txseal]

end Sys2Proof.Machine
end

