-- ==== Sys2Proof/Safety.lean ====
section
/-! DEFINITION. The invariants of the block (R37), the transport's contract (R121), and what a response
cannot depend on (R25, R29), in the terms statements use. -/

namespace Sys2Proof.Machine

/-- The number of bytes the outstanding read request asked for; none with RXSTATE IDLE (R33, R123). -/
def State.outstanding (s : State) : Option Nat :=
  match s.rxstate with
  | .idle => none
  | .hdr => some Config.headerBytes
  | .body => some ((Memory.read s.rxb 1).toNat - 2)

/-- What holds in every reachable state: R37 (a) to (h), of which (a), (b) and (h) hold by the registers'
types, with the canonical form of the buffers, R34, and what an outstanding request asked for (R33, R123). -/
structure Inv (s : State) : Prop where
  /-- TXB is in canonical form. -/
  txForm : Memory.wf s.txb = true
  /-- RXB is in canonical form. -/
  rxForm : Memory.wf s.rxb = true
  /-- R37 (c). -/
  noFrame : s.rxvalid = false → s.rxlen = 0 ∧ s.evalid = false
  /-- R37 (d). -/
  frame : s.rxvalid = true →
    2 ≤ s.rxlen.toNat ∧ Memory.read s.rxb 1 = s.rxlen ∧
      fold (Memory.slice s.rxb 0 (s.rxlen.toNat - 2)) = Memory.read s.rxb (s.rxlen.toNat - 2)
  /-- R37 (e), R26. -/
  built : s.txvalid = true →
    2 ≤ s.txlen.toNat ∧
      Memory.read s.txb (s.txlen.toNat - 2) = fold (Memory.slice s.txb 0 (s.txlen.toNat - 2)) ∧
      Memory.read s.txb (s.txlen.toNat - 1) = Memory.read s.txb (s.txlen.toNat - 2) ^^^ 0xFF
  /-- R37 (f). -/
  noResult : s.evalid = false → s.ecode = 0x00 ∧ s.emean = 0x0 ∧ s.eshort = false
  /-- R34: the cached classification is that of the frame in RXB. -/
  result : s.evalid = true →
    (s.ecode, s.eshort) = classify s.rxFrame ∧ s.emean = meaningIndex s.ecode
  /-- R37 (g). -/
  receiving : s.rxstate ≠ .idle → s.rxvalid = false
  /-- The header step leaves BODY only with a length byte of at least 2 (R123). -/
  bodyLength : s.rxstate = .body → 2 ≤ (Memory.read s.rxb 1).toNat
  /-- The outstanding request is the last one emitted (R33, R121). -/
  request : s.rxstate ≠ .idle → s.requests.getLast? = s.outstanding

/-- The transport keeps its contract at the next step: an outstanding request is answered, by no more bytes
than it asked for, unless a hard reset comes first (R121, R130). -/
def TransportKeepsContract (s : State) : Prop :=
  ∀ n, s.outstanding = some n →
    ∃ e rest, firstExternal s.inputs = some (.external e, rest) ∧ ∀ r, e = .reply r → r.length ≤ n

/-- Two states that differ at most in buffer bytes no operation can read: TXB from TXLEN on, RXB from RXLEN
on or wholly when no frame is held, except the header of a receive in progress (R25, R29, R123). Both
buffers are in canonical form. -/
structure SameButUnloaded (s t : State) : Prop where
  registers : t = { s with txb := t.txb, rxb := t.rxb }
  formLeft : Memory.wf s.txb = true ∧ Memory.wf s.rxb = true
  formRight : Memory.wf t.txb = true ∧ Memory.wf t.rxb = true
  loaded : ∀ i, i < s.txlen.toNat → Memory.read s.txb i = Memory.read t.txb i
  received : s.rxvalid = true → ∀ i, i < s.rxlen.toNat → Memory.read s.rxb i = Memory.read t.rxb i
  header : s.rxstate = .body → ∀ i, i < 2 → Memory.read s.rxb i = Memory.read t.rxb i

/-- The decoder gives the word no operation, and the block answers it IllegalOp and changes no state (R74). -/
def Rejected (w : CommandWord) : Prop :=
  (∃ e, decode w = .error e) ∧
    ∀ s : State, runCommand w s = .next { s with responses := s.responses ++ [0x100000] }

/-- A frame of at least two bytes, cut as the two reads cut it, passes verification and is the frame received
(R126, R131). -/
def Accepted (f : List Byte) : Prop := readResponse (f.take 2) (f.drop 2) = .ok f

/-- Two outcomes of one kind: related next states, or the same reason to stop. -/
def OutcomesAgree (R : State → State → Prop) :
    Host.Outcome State Fault Refusal → Host.Outcome State Fault Refusal → Prop
  | .next s, .next t => R s t
  | .fault f, .fault g => f = g
  | .refused f, .refused g => f = g
  | _, _ => False

end Sys2Proof.Machine
end

