-- ==== Sys2Proof/Certificates/Slice0/Obligations.lean ====
section
/-! DEFINITION. The statements for the provers. A docstring names the rules a statement formalises; "log n"
names a choice of the model it rests on. -/

open Sys2Proof Sys2Proof.Machine

/-! Encoding. -/

/-- R70, R73: words written out from the opcode map decode to the operations they stand for. -/
def Obligations.WordsDecodeAsTabled : Prop :=
  decode 0x010300 = .ok (.strd 3) ∧ decode 0x020000 = .ok .srst ∧ decode 0x11F400 = .ok (.ckupd 0xF4) ∧
    decode 0x2207FF = .ok (.txpoke 7 0xFF) ∧ decode 0x240000 = .ok .txseal ∧ decode 0x250900 = .ok (.txrd 9) ∧
    decode 0x300000 = .ok .recv ∧ decode 0x310800 = .ok (.rxrd 8) ∧ decode 0x400000 = .ok .classify ∧
    decode 0x411200 = .ok (.emlook 0x12)

/-- R70, R72, R73: no operand bit is lost; every operation an encoding admits decodes from its word. -/
def Obligations.DecodeInvertsEncode : Prop :=
  ∀ i : Instr, i.wellFormed = true → decode (encode i) = .ok i

/-- R70, R73, R76: a word has one meaning, and it is the word of that meaning. -/
def Obligations.EncodeInvertsDecode : Prop :=
  ∀ (w : CommandWord) (i : Instr), decode w = .ok i → i.wellFormed = true ∧ encode i = w

/-- R73: the decoder and the match and mask columns of the opcode map agree on every word. -/
def Obligations.DecoderAgreesWithOpcodeMap : Prop :=
  ∀ w : CommandWord,
    (∀ i, decode w = .ok i → ∀ r ∈ opcodeTable, r.accepts w = true ↔ r.mnemonic = i.mnemonic) ∧
      (Rejected w ↔ ∀ r ∈ opcodeTable, r.accepts w = false)

/-- R74: the words that match no row; what the block answers to one is part of `Rejected`. -/
def Obligations.UnmatchedWordIsIllegalOp : Prop :=
  (∀ op a b : Byte,
      op.toNat ∉ [0x01, 0x02, 0x10, 0x11, 0x12, 0x20, 0x21, 0x22, 0x23, 0x24, 0x25, 0x30, 0x31, 0x40, 0x41] →
        Rejected (commandWord op a b)) ∧
    (∀ op a b : Byte, op.toNat ∈ [0x02, 0x10, 0x12, 0x20, 0x23, 0x24, 0x30, 0x40] → (a ≠ 0 ∨ b ≠ 0) →
      Rejected (commandWord op a b)) ∧
    (∀ op a b : Byte, op.toNat ∈ [0x01, 0x11, 0x21, 0x25, 0x31, 0x41] → b ≠ 0 → Rejected (commandWord op a b)) ∧
    (∀ a b : Byte, 3 < a.toNat → Rejected (commandWord 0x01 a b)) ∧
    Rejected 0x000000 ∧
    ∀ w : CommandWord, (∃ e, decode w = .error e) → Rejected w

/-! The step (its inputs are the model's interface, log 1). -/

/-- R60, R74, R210, R212, log 1, log 4, log 7: with RXSTATE IDLE the step takes the oldest input. Of a command
word it is the meaning of the operation it decodes to, or the answer IllegalOp; of an external event, a late reply
too, it is that event's step; a block without an input stays as it is. -/
def Obligations.StepRunsDecodedOperation : Prop :=
  (∀ (s : State) (w : CommandWord) (rest : List Input),
      s.rxstate = .idle → s.inputs = .command w :: rest →
        (∀ i, decode w = .ok i → step s = exec i { s with inputs := rest }) ∧
          (Rejected w →
            step s = .next { s with inputs := rest, responses := s.responses ++ [0x100000] })) ∧
    (∀ (s : State) (e : External) (rest : List Input),
      s.rxstate = .idle → s.inputs = .external e :: rest →
        step s = externalStep e { s with inputs := rest }) ∧
    ∀ s : State, s.rxstate = .idle → s.inputs = [] → step s = .next s

/-- R130, log 1, log 5: while a receive is in progress no command is taken; the oldest external event is, and
without one the step is refused. -/
def Obligations.HeldChannelTakesNoCommand : Prop :=
  ∀ (s : State) (waiting : List CommandWord), s.rxstate ≠ .idle →
    (∀ e rest, s.inputs = waiting.map Input.command ++ .external e :: rest →
        step s = externalStep e { s with inputs := waiting.map Input.command ++ rest }) ∧
      (s.inputs = waiting.map Input.command → step s = .refused .unansweredRequest)

/-- R210: hard reset, SRST and the reset state have the table's values; what the buffers hold, and which
inputs wait, is left open here (log 11). -/
def Obligations.ResetLeavesTableValues : Prop :=
  (∀ s : State,
      ∃ t, externalStep .hardReset s = .next t ∧
        t = { s with
          acc := 0x00, txlen := 0, txvalid := false, rxlen := 0, rxvalid := false, rxstate := .idle,
          ecode := 0x00, emean := 0x0, eshort := false, evalid := false,
          txb := t.txb, rxb := t.rxb, inputs := t.inputs }) ∧
    (∀ s : State,
      ∃ t, exec .srst s = .next t ∧
        t = { s with
          acc := 0x00, txlen := 0, txvalid := false, rxlen := 0, rxvalid := false, rxstate := .idle,
          ecode := 0x00, emean := 0x0, eshort := false, evalid := false,
          txb := t.txb, rxb := t.rxb, responses := s.responses ++ [0x000000] }) ∧
    State.reset.acc = 0x00 ∧ State.reset.txlen = 0 ∧ State.reset.txvalid = false ∧ State.reset.rxlen = 0 ∧
    State.reset.rxvalid = false ∧ State.reset.rxstate = .idle ∧ State.reset.ecode = 0x00 ∧
    State.reset.emean = 0x0 ∧ State.reset.eshort = false ∧ State.reset.evalid = false

/-- R212, log 7: a hard reset abandons a receive without a response and forgets the request; a reply taken with
RXSTATE IDLE is dropped, which is the model's form of "ignored" (log 7); no other event ends a receive without a
response. -/
def Obligations.HardResetAbandonsReceive : Prop :=
  (∀ s : State, s.rxstate ≠ .idle →
      ∃ t, externalStep .hardReset s = .next t ∧ t.rxstate = .idle ∧ t.responses = s.responses ∧
        t.requests = s.requests ∧ t.outstanding = none) ∧
    (∀ (s : State) (r : List Byte), s.rxstate = .idle → externalStep (.reply r) s = .next s) ∧
    (∀ (s t : State) (r : List Byte), s.rxstate ≠ .idle → externalStep (.reply r) s = .next t →
      t.rxstate = .idle → ∃ w, t.responses = s.responses ++ [w])

/-- R121, log 6: a reply longer than the outstanding request asked for is refused, not truncated. -/
def Obligations.OverlongReplyIsRefused : Prop :=
  ∀ (s : State) (r : List Byte) (n : Nat), s.outstanding = some n → n < r.length →
    (s.rxstate = .body → 2 ≤ (Memory.read s.rxb 1).toNat) →
      externalStep (.reply r) s = .refused .overlongReply

/-! The checksum unit. -/

/-- R93. -/
def Obligations.CkclrClearsAccumulator : Prop :=
  encode .ckclr = 0x100000 ∧ (∀ a b : Byte, (a ≠ 0 ∨ b ≠ 0) → Rejected (commandWord 0x10 a b)) ∧
    ∀ s : State, exec .ckclr s = .next { s with acc := 0x00, responses := s.responses ++ [0x000000] }

/-- R94, with its corner case: CKCLR and CKUPD of each byte, in any order, leave ACC equal to the fold. -/
def Obligations.CkupdFoldsOneByte : Prop :=
  (∀ a : Byte, encode (.ckupd a) = 0x110000#24 ||| (a.setWidth 24 <<< 8)) ∧
    (∀ a b : Byte, b ≠ 0 → Rejected (commandWord 0x11 a b)) ∧
    (∀ (a : Byte) (s : State),
      exec (.ckupd a) s =
        .next { s with
          acc := s.acc ^^^ a, responses := s.responses ++ [responseWord 0x00 0x00 (s.acc ^^^ a)] }) ∧
    ∀ (bytes order : List Byte) (s : State), order.Perm bytes →
      ∃ t, execAll (.ckclr :: order.map Instr.ckupd) s = .next t ∧ t.acc = fold bytes ∧
        t = { s with acc := t.acc, responses := t.responses }

/-- R95. -/
def Obligations.CkrdAnswersPair : Prop :=
  encode .ckrd = 0x120000 ∧ (∀ a b : Byte, (a ≠ 0 ∨ b ≠ 0) → Rejected (commandWord 0x12 a b)) ∧
    ∀ s : State,
      exec .ckrd s =
        .next { s with responses := s.responses ++ [responseWord 0x00 s.acc (s.acc ^^^ 0xFF)] }

/-- R90, R91, R92: the laws of the fold and of the pair. -/
def Obligations.FoldAndPairLaws : Prop :=
  fold [] = 0x00 ∧ (∀ s x, fold (s ++ [x]) = fold s ^^^ x) ∧
    (∀ (s : List Byte) (k : Nat), (fold s).getLsbD k = (s.map fun x => x.getLsbD k).foldl Bool.xor false) ∧
    (∀ s, fold s ^^^ 0xFF = (pair s).2 ∧ (pair s).1 = fold s) ∧
    (∀ s t, fold (s ++ t) = fold s ^^^ fold t) ∧ (∀ s t : List Byte, s.Perm t → fold s = fold t) ∧
    (∀ s, fold (s ++ s) = 0x00) ∧ (∀ x, fold [x] = x) ∧
    (∀ s, (pair s).1 ^^^ (pair s).2 = 0xFF ∧ (pair s).1 ≠ (pair s).2) ∧
    (∀ s, fold (s ++ [(pair s).1]) = 0x00 ∧ fold (s ++ [(pair s).1, (pair s).2]) = (pair s).2) ∧
    (∀ (s : List Byte) (i : Nat) (v : Byte), i < s.length → v ≠ s.getD i 0 → fold (s.set i v) ≠ fold s) ∧
    ∀ (s : List Byte) (i j : Nat) (d : Byte), i < s.length → j < s.length → i ≠ j →
      fold ((s.set i (s.getD i 0 ^^^ d)).set j (s.getD j 0 ^^^ d)) = fold s

/-- R23, R96, R216: ACC is written by CKCLR, CKUPD, TXSTAMP, TXSEAL, SRST, hard reset and a body reply that
reaches verification, and by nothing else. -/
def Obligations.AccumulatorWriters : Prop :=
  (∀ (i : Instr) (s t : State), exec i s = .next t → t.acc ≠ s.acc →
      i = .ckclr ∨ (∃ a, i = .ckupd a) ∨ i = .txstamp ∨ i = .txseal ∨ i = .srst) ∧
    ∀ (e : External) (s t : State), externalStep e s = .next t → t.acc ≠ s.acc →
      e = .hardReset ∨
        ∃ r, e = .reply r ∧ s.rxstate = .body ∧ r.length = (Memory.read s.rxb 1).toNat - 2

/-! The frame builder. -/

/-- R100: TXB keeps its bytes; no offset is readable afterwards. -/
def Obligations.TxclrDiscardsFrame : Prop :=
  encode .txclr = 0x200000 ∧ (∀ a b : Byte, (a ≠ 0 ∨ b ≠ 0) → Rejected (commandWord 0x20 a b)) ∧
    ∀ s : State,
      ∃ t, exec .txclr s = .next t ∧
        t = { s with txlen := 0, txvalid := false, responses := s.responses ++ [0x000000] } ∧
        ∀ a, exec (.txrd a) t = .next { t with responses := t.responses ++ [0x110000] }

/-- R101. -/
def Obligations.TxpushAppendsOneByte : Prop :=
  (∀ a : Byte, encode (.txpush a) = 0x210000#24 ||| (a.setWidth 24 <<< 8)) ∧
    (∀ a b : Byte, b ≠ 0 → Rejected (commandWord 0x21 a b)) ∧
    (∀ (a : Byte) (s : State), s.txlen.toNat = 255 →
      exec (.txpush a) s = .next { s with responses := s.responses ++ [0x120000] }) ∧
    ∀ (a : Byte) (s : State), Memory.wf s.txb = true → s.txlen.toNat < 255 →
      ∃ t, exec (.txpush a) s = .next t ∧
        t = { s with
          txb := t.txb, txlen := t.txlen, txvalid := false,
          responses := s.responses ++ [responseWord 0x00 0x00 t.txlen] } ∧
        t.txlen.toNat = s.txlen.toNat + 1 ∧ Memory.read t.txb s.txlen.toNat = a ∧
        ∀ j, j ≠ s.txlen.toNat → Memory.read t.txb j = Memory.read s.txb j

/-- R102. -/
def Obligations.TxpokeWritesLoadedByte : Prop :=
  (∀ a b : Byte, encode (.txpoke a b) = 0x220000#24 ||| (a.setWidth 24 <<< 8) ||| b.setWidth 24) ∧
    (∀ (a b : Byte) (s : State), s.txlen.toNat ≤ a.toNat →
      exec (.txpoke a b) s = .next { s with responses := s.responses ++ [0x110000] }) ∧
    ∀ (a b : Byte) (s : State), Memory.wf s.txb = true → a.toNat < s.txlen.toNat →
      ∃ t, exec (.txpoke a b) s = .next t ∧
        t = { s with txb := t.txb, txvalid := false, responses := s.responses ++ [0x000000] } ∧
        Memory.read t.txb a.toNat = b ∧ ∀ j, j ≠ a.toNat → Memory.read t.txb j = Memory.read s.txb j

/-- R103, with its corner case: a second stamp changes no byte. -/
def Obligations.TxstampWritesPair : Prop :=
  encode .txstamp = 0x230000 ∧ (∀ a b : Byte, (a ≠ 0 ∨ b ≠ 0) → Rejected (commandWord 0x23 a b)) ∧
    (∀ s : State, s.txlen.toNat < 2 →
      exec .txstamp s = .next { s with responses := s.responses ++ [0x130000] }) ∧
    ∀ (s : State) (n : Nat), Memory.wf s.txb = true → s.txlen.toNat = n + 2 →
      ∃ t chk, exec .txstamp s = .next t ∧ chk = fold (s.txFrame.take n) ∧
        t = { s with
          txb := t.txb, acc := chk, txvalid := true,
          responses := s.responses ++ [responseWord 0x00 chk (chk ^^^ 0xFF)] } ∧
        Memory.read t.txb n = chk ∧ Memory.read t.txb (n + 1) = chk ^^^ 0xFF ∧
        (∀ j, j ≠ n → j ≠ n + 1 → Memory.read t.txb j = Memory.read s.txb j) ∧
        ∃ u, exec .txstamp t = .next u ∧ u.txb = t.txb

/-- R79, R104, R107: with at least four bytes loaded, the stamped frame is a well-formed CommandFrame exactly
when the host loaded SOF and the right length byte. -/
def Obligations.StampedHeaderIsHostsDuty : Prop :=
  ∀ s t : State, Memory.wf s.txb = true → 4 ≤ s.txlen.toNat → exec .txstamp s = .next t →
    (IsCommandFrame t.txFrame ↔ Memory.read s.txb 0 = Config.sof ∧ Memory.read s.txb 1 = s.txlen)

/-- R105. -/
def Obligations.TxsealInjectsLengthAndAppendsPair : Prop :=
  encode .txseal = 0x240000 ∧ (∀ a b : Byte, (a ≠ 0 ∨ b ≠ 0) → Rejected (commandWord 0x24 a b)) ∧
    (∀ s : State, s.txlen.toNat < 2 →
      exec .txseal s = .next { s with responses := s.responses ++ [0x130000] }) ∧
    (∀ s : State, 253 < s.txlen.toNat →
      exec .txseal s = .next { s with responses := s.responses ++ [0x120000] }) ∧
    ∀ (s : State) (n : Nat), Memory.wf s.txb = true → s.txlen.toNat = n → 2 ≤ n → n ≤ 253 →
      ∃ t chk, exec .txseal s = .next t ∧ t.txlen.toNat = n + 2 ∧
        chk = fold ([Memory.read s.txb 0, t.txlen] ++ Memory.slice s.txb 2 n) ∧
        t = { s with
          txb := t.txb, txlen := t.txlen, acc := chk, txvalid := true,
          responses := s.responses ++ [responseWord 0x00 chk (chk ^^^ 0xFF)] } ∧
        Memory.read t.txb 1 = t.txlen ∧ Memory.read t.txb n = chk ∧ Memory.read t.txb (n + 1) = chk ^^^ 0xFF ∧
        ∀ j, j ≠ 1 → j ≠ n → j ≠ n + 1 → Memory.read t.txb j = Memory.read s.txb j

/-- R106. -/
def Obligations.TxrdReadsLoadedByte : Prop :=
  (∀ a : Byte, encode (.txrd a) = 0x250000#24 ||| (a.setWidth 24 <<< 8)) ∧
    (∀ a b : Byte, b ≠ 0 → Rejected (commandWord 0x25 a b)) ∧
    (∀ (a : Byte) (s : State), s.txlen.toNat ≤ a.toNat →
      exec (.txrd a) s = .next { s with responses := s.responses ++ [0x110000] }) ∧
    ∀ (a : Byte) (s : State), a.toNat < s.txlen.toNat →
      exec (.txrd a) s =
        .next { s with
          responses := s.responses ++ [responseWord 0x00 0x00 (s.txFrame.getD a.toNat 0)] }

/-- R24, R26, R216, R222: TXB, TXLEN and TXVALID are touched by the FBU's operations, SRST and hard reset
alone, and only a stamp or a seal sets TXVALID. -/
def Obligations.TransmitStateWriters : Prop :=
  (∀ (i : Instr) (s t : State), exec i s = .next t →
      (t.txb, t.txlen, t.txvalid) ≠ (s.txb, s.txlen, s.txvalid) →
        i = .txclr ∨ (∃ a, i = .txpush a) ∨ (∃ a b, i = .txpoke a b) ∨ i = .txstamp ∨ i = .txseal ∨ i = .srst) ∧
    (∀ (i : Instr) (s t : State), exec i s = .next t → s.txvalid = false → t.txvalid = true →
      i = .txstamp ∨ i = .txseal) ∧
    ∀ (r : List Byte) (s t : State), externalStep (.reply r) s = .next t →
      t.txb = s.txb ∧ t.txlen = s.txlen ∧ t.txvalid = s.txvalid

/-! The response parser. -/

/-- R122. -/
def Obligations.RecvIssuesHeaderRead : Prop :=
  encode .recv = 0x300000 ∧ (∀ a b : Byte, (a ≠ 0 ∨ b ≠ 0) → Rejected (commandWord 0x30 a b)) ∧
    ∀ s : State,
      exec .recv s =
        .next { s with
          rxvalid := false, rxlen := 0, evalid := false, ecode := 0x00, emean := 0x0, eshort := false,
          rxstate := .hdr, requests := s.requests ++ [2] }

/-- R123, R124. -/
def Obligations.HeaderReplyStep : Prop :=
  ∀ s : State, s.rxstate = .hdr →
    (∀ r : List Byte, r.length < 2 →
        externalStep (.reply r) s =
          .next { s with rxstate := .idle, responses := s.responses ++ [0x010000] }) ∧
      ∀ sof len : Byte, Memory.wf s.rxb = true →
        ∃ t, externalStep (.reply [sof, len]) s = .next t ∧ Memory.read t.rxb 0 = sof ∧
          Memory.read t.rxb 1 = len ∧ (∀ j, 2 ≤ j → Memory.read t.rxb j = Memory.read s.rxb j) ∧
          (len.toNat < 2 →
            t = { s with rxb := t.rxb, rxstate := .idle, responses := s.responses ++ [0x140000] }) ∧
          (2 ≤ len.toNat →
            t = { s with rxb := t.rxb, rxstate := .body, requests := s.requests ++ [len.toNat - 2] })

/-- R125, log 12: on ChecksumMismatch too RXB holds the body bytes, which R190 does not list and R29 leaves
open (log 12). -/
def Obligations.BodyReplyStep : Prop :=
  ∀ (s : State) (n : Nat), s.rxstate = .body → (Memory.read s.rxb 1).toNat = n + 2 →
    (∀ r : List Byte, r.length < n →
        externalStep (.reply r) s =
          .next { s with rxstate := .idle, responses := s.responses ++ [0x010000] }) ∧
      ∀ r : List Byte, Memory.wf s.rxb = true → r.length = n →
        ∃ t frame c, externalStep (.reply r) s = .next t ∧
          frame = [Memory.read s.rxb 0, Memory.read s.rxb 1] ++ r ∧ c = fold (frame.take n) ∧
          Memory.slice t.rxb 0 (n + 2) = frame ∧
          (∀ j, n + 2 ≤ j → Memory.read t.rxb j = Memory.read s.rxb j) ∧
          (c ≠ frame.getD n 0 →
            t = { s with
              rxb := t.rxb, acc := c, rxstate := .idle, responses := s.responses ++ [0x020000] }) ∧
          (c = frame.getD n 0 →
            t = { s with
              rxb := t.rxb, acc := c, rxlen := Memory.read s.rxb 1, rxvalid := true, rxstate := .idle,
              responses := s.responses ++ [responseWord 0x00 0x00 (Memory.read s.rxb 1)] })

/-- R131, R130: the three steps of RECV compose into the function of the two replies; within three steps one
response is given. The placing of the inputs is the model's (log 1). -/
def Obligations.ReceiveStepsComposeToReadResponse : Prop :=
  ∀ (s : State) (rest : List Input) (r1 r2 : List Byte),
    s.rxstate = .idle → Memory.wf s.rxb = true →
    s.inputs = .command 0x300000 :: .external (.reply r1) :: .external (.reply r2) :: rest →
    r1.length ≤ 2 → (∀ sof len : Byte, r1 = [sof, len] → r2.length ≤ len.toNat - 2) →
      (∀ f, readResponse r1 r2 = .ok f →
        ∃ t, steps 3 s = .next t ∧ t.rxstate = .idle ∧ t.rxvalid = true ∧ t.rxlen.toNat = f.length ∧
          t.rxFrame = f ∧ t.acc = fold (f.take (f.length - 2)) ∧ t.evalid = false ∧ t.inputs = rest ∧
          t.responses = s.responses ++ [responseWord 0x00 0x00 t.rxlen] ∧
          t.requests = s.requests ++ [2, f.length - 2] ∧
          t.txb = s.txb ∧ t.txlen = s.txlen ∧ t.txvalid = s.txvalid) ∧
      ∀ c, readResponse r1 r2 = .error c →
        ∃ k t, k ≤ 3 ∧ steps k s = .next t ∧ t.rxstate = .idle ∧ t.rxvalid = false ∧ t.rxlen = 0 ∧
          t.evalid = false ∧ t.responses = s.responses ++ [faultWord c] ∧
          t.txb = s.txb ∧ t.txlen = s.txlen ∧ t.txvalid = s.txvalid ∧ (c ≠ .checksumMismatch → t.acc = s.acc)

/-- R126: which frames pass, in both forms; every single corrupted byte before the last is found unless it is
the length byte; two corruptions with one difference are not. -/
def Obligations.WhatVerificationDetects : Prop :=
  (∀ f : List Byte, (f.getD 1 0).toNat = f.length → 2 ≤ f.length →
      (Accepted f ↔ fold (f.take (f.length - 2)) = f.getD (f.length - 2) 0) ∧
        (Accepted f ↔ fold (f.take (f.length - 1)) = 0x00)) ∧
    (∀ (f : List Byte) (k : Nat) (v : Byte), Accepted f → k + 2 ≤ f.length → k ≠ 1 → v ≠ f.getD k 0 →
      readResponse ((f.set k v).take 2) ((f.set k v).drop 2) = .error .checksumMismatch) ∧
    ∀ (f : List Byte) (i j : Nat) (d : Byte), Accepted f → i + 2 ≤ f.length → j + 2 ≤ f.length → i ≠ 1 →
      j ≠ 1 → i ≠ j → Accepted ((f.set i (f.getD i 0 ^^^ d)).set j (f.getD j 0 ^^^ d))

/-- R127, R128: a frame of at least three bytes is accepted whatever its last byte is, and for every first
byte some frame that begins with it is accepted. -/
def Obligations.FirstAndLastBytesUnchecked : Prop :=
  (∀ (f : List Byte) (v : Byte), Accepted f → 3 ≤ f.length → Accepted (f.set (f.length - 1) v)) ∧
    ∀ (sof : Byte) (payload : List Byte) (last : Byte), payload.length ≤ 251 →
      ∃ chk, Accepted ([sof, BitVec.ofNat 8 (payload.length + 4)] ++ payload ++ [chk, last])

/-- R121, R132: against a transport that keeps its contract, a received frame is exactly the front of the
stream, and the rest of the stream stays. -/
def Obligations.ReceiveConsumesOneFrame : Prop :=
  ∀ (stream : List Byte) (k1 k2 : Nat) (sof len : Byte) (f : List Byte),
    (transportRead stream 2 k1).1 = [sof, len] →
    readResponse (transportRead stream 2 k1).1
        (transportRead (transportRead stream 2 k1).2 (len.toNat - 2) k2).1 = .ok f →
      f = stream.take f.length ∧ f.length = len.toNat ∧
        (transportRead (transportRead stream 2 k1).2 (len.toNat - 2) k2).2 = stream.drop f.length

/-- R129. -/
def Obligations.RxrdReadsValidatedByte : Prop :=
  (∀ a : Byte, encode (.rxrd a) = 0x310000#24 ||| (a.setWidth 24 <<< 8)) ∧
    (∀ a b : Byte, b ≠ 0 → Rejected (commandWord 0x31 a b)) ∧
    (∀ (a : Byte) (s : State), s.rxvalid = false →
      exec (.rxrd a) s = .next { s with responses := s.responses ++ [0x150000] }) ∧
    (∀ (a : Byte) (s : State), s.rxvalid = true → s.rxlen.toNat ≤ a.toNat →
      exec (.rxrd a) s = .next { s with responses := s.responses ++ [0x110000] }) ∧
    ∀ (a : Byte) (s : State), s.rxvalid = true → a.toNat < s.rxlen.toNat →
      exec (.rxrd a) s =
        .next { s with
          responses := s.responses ++ [responseWord 0x00 0x00 (s.rxFrame.getD a.toNat 0)] }

/-- R22, R222: the received frame is changed by RECV and SRST alone among the operations, the classification
by CLASSIFY, RECV and SRST alone. -/
def Obligations.ReceiveStateWriters : Prop :=
  (∀ (i : Instr) (s t : State), exec i s = .next t →
      (t.rxb, t.rxlen, t.rxvalid, t.rxstate) ≠ (s.rxb, s.rxlen, s.rxvalid, s.rxstate) → i = .recv ∨ i = .srst) ∧
    ∀ (i : Instr) (s t : State), exec i s = .next t →
      (t.ecode, t.emean, t.eshort, t.evalid) ≠ (s.ecode, s.emean, s.eshort, s.evalid) →
        i = .classify ∨ i = .recv ∨ i = .srst

/-! The error decoder. -/

/-- R141. -/
def Obligations.MeaningTable : Prop :=
  (∀ row ∈ [(0x00, 0x0, "OK"), (0x02, 0x1, "Command not supported"), (0x03, 0x2, "Option not supported"),
        (0x0F, 0x3, "Error with no information given"), (0x10, 0x4, "Specified block is not available"),
        (0x11, 0x5, "Block already locked"), (0x12, 0x6, "Block is locked, content cannot be changed"),
        (0x13, 0x7, "Block not successfully programmed"), (0x14, 0x8, "Block not successfully locked"),
        (0x15, 0x9, "Block is read-protected")],
      meaningIndex (BitVec.ofNat 8 row.1) = BitVec.ofNat 4 row.2.1 ∧
        meaningString (BitVec.ofNat 8 row.1) = row.2.2) ∧
    ∀ code : Byte, code.toNat ∉ [0x00, 0x02, 0x03, 0x0F, 0x10, 0x11, 0x12, 0x13, 0x14, 0x15] →
      meaningIndex code = 0xF ∧ meaningString code = "Unknown error code"

/-- R142. -/
def Obligations.ClassifyLatchesResult : Prop :=
  encode .classify = 0x400000 ∧ (∀ a b : Byte, (a ≠ 0 ∨ b ≠ 0) → Rejected (commandWord 0x40 a b)) ∧
    (∀ s : State, s.rxvalid = false →
      exec .classify s = .next { s with responses := s.responses ++ [0x150000] }) ∧
    ∀ s : State, s.rxvalid = true →
      ∃ code short,
        exec .classify s =
            .next { s with
              ecode := code, emean := meaningIndex code, eshort := short, evalid := true,
              responses := s.responses ++
                [responseWord 0x00
                  (BitVec.ofNat 8 ((if short then 128 else 0) + (meaningIndex code).toNat)) code] } ∧
          ((s.rxlen = 11 ∧ Memory.read s.rxb 7 = 0x01 ∧ code = Memory.read s.rxb 8 ∧ short = false) ∨
            (s.rxlen = 10 ∧ Memory.read s.rxb 5 = 0x01 ∧ code = Memory.read s.rxb 7 ∧ short = true) ∨
            (¬(s.rxlen = 11 ∧ Memory.read s.rxb 7 = 0x01) ∧ ¬(s.rxlen = 10 ∧ Memory.read s.rxb 5 = 0x01) ∧
              code = 0x00 ∧ short = false))

/-- R140, R34: CLASSIFY computes the pure function of the validated frame, and doing it again answers the
same word and leaves the same state. -/
def Obligations.ClassifyIsFunctionOfFrame : Prop :=
  ∀ s : State, s.rxvalid = true →
    ∃ t w, exec .classify s = .next t ∧ (t.ecode, t.eshort) = classify s.rxFrame ∧
      t.emean = meaningIndex t.ecode ∧ t.evalid = true ∧ t.rxFrame = s.rxFrame ∧
      t.responses = s.responses ++ [w] ∧
      exec .classify t = .next { t with responses := t.responses ++ [w] }

/-- R143. -/
def Obligations.EmlookAnswersIndex : Prop :=
  (∀ a : Byte, encode (.emlook a) = 0x410000#24 ||| (a.setWidth 24 <<< 8)) ∧
    (∀ a b : Byte, b ≠ 0 → Rejected (commandWord 0x41 a b)) ∧
    ∀ (a : Byte) (s : State),
      exec (.emlook a) s =
        .next { s with
          responses := s.responses ++ [responseWord 0x00 (BitVec.ofNat 8 (meaningIndex a).toNat) a] }

/-! Status and system. -/

/-- R151, R32. -/
def Obligations.StrdReadsStatusRegisters : Prop :=
  (∀ a : Byte, encode (.strd a) = 0x010000#24 ||| (a.setWidth 24 <<< 8)) ∧
    (∀ a b : Byte, (b ≠ 0 ∨ 3 < a.toNat) → Rejected (commandWord 0x01 a b)) ∧
    ∀ s : State,
      exec (.strd 0) s =
          .next { s with
            responses := s.responses ++
              [responseWord 0x00 0x00
                (BitVec.ofNat 8 (s.txvalid.toNat + 2 * s.rxvalid.toNat + 4 * s.evalid.toNat))] } ∧
        exec (.strd 1) s =
          .next { s with responses := s.responses ++ [responseWord 0x00 0x00 s.txlen] } ∧
        exec (.strd 2) s =
          .next { s with responses := s.responses ++ [responseWord 0x00 0x00 s.rxlen] } ∧
        exec (.strd 3) s =
          .next { s with
            responses := s.responses ++
              [responseWord 0x00 (BitVec.ofNat 8 (128 * s.eshort.toNat + s.emean.toNat)) s.ecode] } ∧
        (∀ a : Byte, 3 < a.toNat →
          exec (.strd a) s = .next { s with responses := s.responses ++ [0x100000] }) ∧
        (Inv s → s.evalid = false →
          exec (.strd 3) s = .next { s with responses := s.responses ++ [0x000000] })

/-- R152, log 11: SRST leaves the state of a hard reset. That a hard reset keeps the buffers' bytes and the
waiting inputs is the model's choice (log 11). -/
def Obligations.SrstEqualsHardReset : Prop :=
  encode .srst = 0x020000 ∧ (∀ a b : Byte, (a ≠ 0 ∨ b ≠ 0) → Rejected (commandWord 0x02 a b)) ∧
    ∀ s : State,
      ∃ t u, exec .srst s = .next t ∧ externalStep .hardReset s = .next u ∧
        t = { u with responses := s.responses ++ [0x000000] } ∧
        t = { State.reset with
          txb := s.txb, rxb := s.rxb, inputs := s.inputs, requests := s.requests,
          responses := s.responses ++ [0x000000] }

/-- R211: what a block answers after a hard reset or SRST, whatever its buffers hold. -/
def Obligations.AnswersAfterReset : Prop :=
  ∀ s t : State, externalStep .hardReset s = .next t ∨ exec .srst s = .next t →
    (∀ a : Byte, a.toNat < 4 → exec (.strd a) t = .next { t with responses := t.responses ++ [0x000000] }) ∧
      exec .ckrd t = .next { t with responses := t.responses ++ [0x0000FF] } ∧
      (∀ a, exec (.txrd a) t = .next { t with responses := t.responses ++ [0x110000] }) ∧
      (∀ a, exec (.rxrd a) t = .next { t with responses := t.responses ++ [0x150000] }) ∧
      exec .classify t = .next { t with responses := t.responses ++ [0x150000] } ∧
      exec .txstamp t = .next { t with responses := t.responses ++ [0x130000] } ∧
      exec .txseal t = .next { t with responses := t.responses ++ [0x130000] }

/-! The whole machine. -/

/-- R12, R71, R120: every operation completes from every state; RECV emits one read request and no response,
every other operation one response and no request. -/
def Obligations.EveryOperationAnswersOnce : Prop :=
  ∀ (i : Instr) (s : State),
    ∃ t, exec i s = .next t ∧ t.inputs = s.inputs ∧
      (i = .recv → t.responses = s.responses ∧ t.requests = s.requests ++ [2]) ∧
      (i ≠ .recv → (∃ w, t.responses = s.responses ++ [w]) ∧ t.requests = s.requests)

/-- R57: the reading operations change no state, and a second read answers the same word. -/
def Obligations.ReadsChangeNothing : Prop :=
  ∀ (i : Instr) (s : State),
    ((∃ a, i = .txrd a) ∨ (∃ a, i = .rxrd a) ∨ (∃ a, i = .strd a) ∨ i = .ckrd ∨ ∃ a, i = .emlook a) →
      ∃ w, exec i s = .next { s with responses := s.responses ++ [w] } ∧
        exec i { s with responses := s.responses ++ [w] } =
          .next { s with responses := s.responses ++ [w] ++ [w] }

/-- R71, R190, R194: an operation that answers a fault changes nothing else; a reply step that does ends the
receive, and only ChecksumMismatch writes ACC; the fault's data bytes are zero. -/
def Obligations.FaultsArePrecise : Prop :=
  (∀ (i : Instr) (s t : State) (w : ResponseWord),
      exec i s = .next t → t.responses = s.responses ++ [w] → w.extractLsb' 16 8 ≠ StatusCode.ok.code →
        t = { s with responses := s.responses ++ [w] } ∧ w.extractLsb' 0 16 = 0#16 ∧
          ∃ c : StatusCode, c ≠ .ok ∧ w = faultWord c) ∧
    ∀ (r : List Byte) (s t : State) (w : ResponseWord),
      externalStep (.reply r) s = .next t → t.responses = s.responses ++ [w] →
        w.extractLsb' 16 8 ≠ StatusCode.ok.code →
          t = { s with
            rxb := t.rxb, acc := t.acc, rxstate := .idle, responses := s.responses ++ [w] } ∧
          (w = 0x010000 ∨ w = 0x020000 ∨ w = 0x140000) ∧ (w ≠ 0x020000 → t.acc = s.acc)

/-- R16, R71, R121: a step delivers at most one response word and emits at most one read request, which asks
for at most 253 bytes. -/
def Obligations.StepOutputsAreBounded : Prop :=
  ∀ s t : State, step s = .next t →
    (t.responses = s.responses ∨ ∃ w, t.responses = s.responses ++ [w]) ∧
      (t.requests = s.requests ∨ ∃ n, n ≤ 253 ∧ t.requests = s.requests ++ [n])

/-- R37 at reset. -/
def Obligations.InvariantHoldsAtReset : Prop := Inv State.reset

/-- R37: every step keeps the invariants, from every state that has them. -/
def Obligations.EveryStepKeepsInvariant : Prop :=
  ∀ s t : State, Inv s → step s = .next t → Inv t

/-- R121, R130, log 5, log 6: with the invariants and a transport that keeps its contract no step stops. -/
def Obligations.BlockNeverStops : Prop :=
  ∀ s : State, Inv s → TransportKeepsContract s → ∃ t, step s = .next t

/-- R25, R29, R211: no response, request or register ever depends on a buffer byte that is not loaded; so not
on the reset contents the model chose (log 8). -/
def Obligations.UnloadedBytesAreUnobservable : Prop :=
  ∀ s t : State, SameButUnloaded s t → OutcomesAgree SameButUnloaded (step s) (step t)

/-- R109: a stamped or sealed frame whose length byte is its length, delivered back in two replies, is
received OK, byte for byte. The placing of the inputs is the model's (log 1). -/
def Obligations.BuiltFrameIsReceived : Prop :=
  ∀ (s : State) (rest : List Input),
    Inv s → s.rxstate = .idle → s.txvalid = true → Memory.read s.txb 1 = s.txlen →
    s.inputs = .command 0x300000 :: .external (.reply (s.txFrame.take 2)) ::
      .external (.reply (s.txFrame.drop 2)) :: rest →
      ∃ t, steps 3 s = .next t ∧ t.rxvalid = true ∧ t.rxlen = s.txlen ∧ t.rxFrame = s.txFrame ∧
        t.txFrame = s.txFrame ∧ t.txvalid = true ∧
        t.responses = s.responses ++ [responseWord 0x00 0x00 s.txlen]

/-- R78: the sequence of `fold` and `pair` answers the pair, and leaves the rest of the state alone. -/
def Obligations.FoldSequenceAnswersPair : Prop :=
  ∀ (bytes : List Byte) (s : State),
    ∃ t answers, execAll (foldSequence bytes) s = .next t ∧ t.acc = fold bytes ∧
      t.responses = s.responses ++ answers ++ [responseWord 0x00 (pair bytes).1 (pair bytes).2] ∧
      answers.length = bytes.length + 1 ∧ t = { s with acc := t.acc, responses := t.responses }

/-- R78, R103: the sequence of `build_fixed` leaves the built frame in TXB, for every template and mutation
list the model's function is defined on (log 17). -/
def Obligations.BuildFixedSequenceBuildsFrame : Prop :=
  ∀ (template : List Byte) (mutations : List (Byte × Byte)) (f : List Byte) (s : State),
    Memory.wf s.txb = true → buildFixed template mutations = some f →
      ∃ t, execAll (buildFixedSequence template mutations) s = .next t ∧ t.txFrame = f ∧
        t.txlen.toNat = f.length ∧ t.txvalid = true ∧ t.acc = fold (f.take (f.length - 2)) ∧
        t = { s with
          txb := t.txb, txlen := t.txlen, txvalid := true, acc := t.acc, responses := t.responses }

/-- R78, R105: the sequence of `build_envelope` leaves the built frame in TXB, wherever the model's function is
defined (log 17). -/
def Obligations.BuildEnvelopeSequenceBuildsFrame : Prop :=
  ∀ (header payload f : List Byte) (s : State),
    Memory.wf s.txb = true → buildEnvelope header payload = some f →
      ∃ t, execAll (buildEnvelopeSequence header payload) s = .next t ∧ t.txFrame = f ∧
        t.txlen.toNat = f.length ∧ t.txvalid = true ∧ t.acc = fold (f.take (f.length - 2)) ∧
        t = { s with
          txb := t.txb, txlen := t.txlen, txvalid := true, acc := t.acc, responses := t.responses }

/-- R79, R80, R105: an envelope whose header begins with SOF, such as the ISO header, is a well-formed
CommandFrame. -/
def Obligations.EnvelopeIsCommandFrame : Prop :=
  ∀ header payload f : List Byte, header.head? = some Config.sof → buildEnvelope header payload = some f →
    IsCommandFrame f ∧ f.length = header.length + payload.length + 2
end

