-- ==== Sys2Proof/Laws/Checksum.lean ====
section
/-! SUPPORT. The fold of a sequence, piece by piece (R90). -/

namespace Sys2Proof.Machine

@[simp] theorem fold_nil : fold [] = 0x00 := rfl

/-- The recursion of R90. -/
@[simp] theorem fold_concat (s : List Byte) (x : Byte) : fold (s ++ [x]) = fold s ^^^ x := by
  simp [fold]

/-- The fold of one byte and more. -/
theorem fold_cons (x : Byte) (s : List Byte) : fold (x :: s) = x ^^^ fold s := by
  induction s using List.reverseRecOn with
  | nil => simp [fold]
  | append_singleton s y ih =>
    rw [← List.cons_append, fold_concat, fold_concat, ih, BitVec.xor_assoc]

@[simp] theorem pair_fst (s : List Byte) : (pair s).1 = fold s := rfl
@[simp] theorem pair_snd (s : List Byte) : (pair s).2 = fold s ^^^ 0xFF := rfl

end Sys2Proof.Machine
end

