-- ==== Sys2Proof/Laws/State.lean ====
section
/-! SUPPORT. What each named update of the state does to each field. -/

namespace Sys2Proof.Machine

variable (s : State)

/-! `State.addResponse` -/

@[simp] theorem addResponse_acc (w : ResponseWord) : (s.addResponse w).acc = s.acc := rfl
@[simp] theorem addResponse_txb (w : ResponseWord) : (s.addResponse w).txb = s.txb := rfl
@[simp] theorem addResponse_txlen (w : ResponseWord) : (s.addResponse w).txlen = s.txlen := rfl
@[simp] theorem addResponse_txvalid (w : ResponseWord) : (s.addResponse w).txvalid = s.txvalid := rfl
@[simp] theorem addResponse_rxb (w : ResponseWord) : (s.addResponse w).rxb = s.rxb := rfl
@[simp] theorem addResponse_rxlen (w : ResponseWord) : (s.addResponse w).rxlen = s.rxlen := rfl
@[simp] theorem addResponse_rxvalid (w : ResponseWord) : (s.addResponse w).rxvalid = s.rxvalid := rfl
@[simp] theorem addResponse_rxstate (w : ResponseWord) : (s.addResponse w).rxstate = s.rxstate := rfl
@[simp] theorem addResponse_ecode (w : ResponseWord) : (s.addResponse w).ecode = s.ecode := rfl
@[simp] theorem addResponse_emean (w : ResponseWord) : (s.addResponse w).emean = s.emean := rfl
@[simp] theorem addResponse_eshort (w : ResponseWord) : (s.addResponse w).eshort = s.eshort := rfl
@[simp] theorem addResponse_evalid (w : ResponseWord) : (s.addResponse w).evalid = s.evalid := rfl
@[simp] theorem addResponse_inputs (w : ResponseWord) : (s.addResponse w).inputs = s.inputs := rfl
@[simp] theorem addResponse_responses (w : ResponseWord) : (s.addResponse w).responses = s.responses ++ [w] := rfl
@[simp] theorem addResponse_requests (w : ResponseWord) : (s.addResponse w).requests = s.requests := rfl

/-! `State.addRequest` -/

@[simp] theorem addRequest_acc (n : Nat) : (s.addRequest n).acc = s.acc := rfl
@[simp] theorem addRequest_txb (n : Nat) : (s.addRequest n).txb = s.txb := rfl
@[simp] theorem addRequest_txlen (n : Nat) : (s.addRequest n).txlen = s.txlen := rfl
@[simp] theorem addRequest_txvalid (n : Nat) : (s.addRequest n).txvalid = s.txvalid := rfl
@[simp] theorem addRequest_rxb (n : Nat) : (s.addRequest n).rxb = s.rxb := rfl
@[simp] theorem addRequest_rxlen (n : Nat) : (s.addRequest n).rxlen = s.rxlen := rfl
@[simp] theorem addRequest_rxvalid (n : Nat) : (s.addRequest n).rxvalid = s.rxvalid := rfl
@[simp] theorem addRequest_rxstate (n : Nat) : (s.addRequest n).rxstate = s.rxstate := rfl
@[simp] theorem addRequest_ecode (n : Nat) : (s.addRequest n).ecode = s.ecode := rfl
@[simp] theorem addRequest_emean (n : Nat) : (s.addRequest n).emean = s.emean := rfl
@[simp] theorem addRequest_eshort (n : Nat) : (s.addRequest n).eshort = s.eshort := rfl
@[simp] theorem addRequest_evalid (n : Nat) : (s.addRequest n).evalid = s.evalid := rfl
@[simp] theorem addRequest_inputs (n : Nat) : (s.addRequest n).inputs = s.inputs := rfl
@[simp] theorem addRequest_responses (n : Nat) : (s.addRequest n).responses = s.responses := rfl
@[simp] theorem addRequest_requests (n : Nat) : (s.addRequest n).requests = s.requests ++ [n] := rfl

/-! `State.discardFrame` -/

@[simp] theorem discardFrame_acc : s.discardFrame.acc = s.acc := rfl
@[simp] theorem discardFrame_txb : s.discardFrame.txb = s.txb := rfl
@[simp] theorem discardFrame_txlen : s.discardFrame.txlen = s.txlen := rfl
@[simp] theorem discardFrame_txvalid : s.discardFrame.txvalid = s.txvalid := rfl
@[simp] theorem discardFrame_rxb : s.discardFrame.rxb = s.rxb := rfl
@[simp] theorem discardFrame_rxlen : s.discardFrame.rxlen = 0 := rfl
@[simp] theorem discardFrame_rxvalid : s.discardFrame.rxvalid = false := rfl
@[simp] theorem discardFrame_rxstate : s.discardFrame.rxstate = s.rxstate := rfl
@[simp] theorem discardFrame_ecode : s.discardFrame.ecode = 0x00 := rfl
@[simp] theorem discardFrame_emean : s.discardFrame.emean = 0x0 := rfl
@[simp] theorem discardFrame_eshort : s.discardFrame.eshort = false := rfl
@[simp] theorem discardFrame_evalid : s.discardFrame.evalid = false := rfl
@[simp] theorem discardFrame_inputs : s.discardFrame.inputs = s.inputs := rfl
@[simp] theorem discardFrame_responses : s.discardFrame.responses = s.responses := rfl
@[simp] theorem discardFrame_requests : s.discardFrame.requests = s.requests := rfl

/-! `State.resetRegisters` -/

@[simp] theorem resetRegisters_acc : s.resetRegisters.acc = 0x00 := rfl
@[simp] theorem resetRegisters_txb : s.resetRegisters.txb = s.txb := rfl
@[simp] theorem resetRegisters_txlen : s.resetRegisters.txlen = 0 := rfl
@[simp] theorem resetRegisters_txvalid : s.resetRegisters.txvalid = false := rfl
@[simp] theorem resetRegisters_rxb : s.resetRegisters.rxb = s.rxb := rfl
@[simp] theorem resetRegisters_rxlen : s.resetRegisters.rxlen = 0 := rfl
@[simp] theorem resetRegisters_rxvalid : s.resetRegisters.rxvalid = false := rfl
@[simp] theorem resetRegisters_rxstate : s.resetRegisters.rxstate = .idle := rfl
@[simp] theorem resetRegisters_ecode : s.resetRegisters.ecode = 0x00 := rfl
@[simp] theorem resetRegisters_emean : s.resetRegisters.emean = 0x0 := rfl
@[simp] theorem resetRegisters_eshort : s.resetRegisters.eshort = false := rfl
@[simp] theorem resetRegisters_evalid : s.resetRegisters.evalid = false := rfl
@[simp] theorem resetRegisters_inputs : s.resetRegisters.inputs = s.inputs := rfl
@[simp] theorem resetRegisters_responses : s.resetRegisters.responses = s.responses := rfl
@[simp] theorem resetRegisters_requests : s.resetRegisters.requests = s.requests := rfl

/-! `State.presentCommand` -/

@[simp] theorem presentCommand_acc (w : CommandWord) : (s.presentCommand w).acc = s.acc := rfl
@[simp] theorem presentCommand_txb (w : CommandWord) : (s.presentCommand w).txb = s.txb := rfl
@[simp] theorem presentCommand_txlen (w : CommandWord) : (s.presentCommand w).txlen = s.txlen := rfl
@[simp] theorem presentCommand_txvalid (w : CommandWord) : (s.presentCommand w).txvalid = s.txvalid := rfl
@[simp] theorem presentCommand_rxb (w : CommandWord) : (s.presentCommand w).rxb = s.rxb := rfl
@[simp] theorem presentCommand_rxlen (w : CommandWord) : (s.presentCommand w).rxlen = s.rxlen := rfl
@[simp] theorem presentCommand_rxvalid (w : CommandWord) : (s.presentCommand w).rxvalid = s.rxvalid := rfl
@[simp] theorem presentCommand_rxstate (w : CommandWord) : (s.presentCommand w).rxstate = .idle := rfl
@[simp] theorem presentCommand_ecode (w : CommandWord) : (s.presentCommand w).ecode = s.ecode := rfl
@[simp] theorem presentCommand_emean (w : CommandWord) : (s.presentCommand w).emean = s.emean := rfl
@[simp] theorem presentCommand_eshort (w : CommandWord) : (s.presentCommand w).eshort = s.eshort := rfl
@[simp] theorem presentCommand_evalid (w : CommandWord) : (s.presentCommand w).evalid = s.evalid := rfl
@[simp] theorem presentCommand_inputs (w : CommandWord) : (s.presentCommand w).inputs = .command w :: s.inputs := rfl
@[simp] theorem presentCommand_responses (w : CommandWord) : (s.presentCommand w).responses = s.responses := rfl
@[simp] theorem presentCommand_requests (w : CommandWord) : (s.presentCommand w).requests = s.requests := rfl

end Sys2Proof.Machine
end

