-- ==== Sys2Proof/Laws/Ops.lean ====
section
/-! SUPPORT. One lemma per shared operation and per meaning with more than one outcome: everything it can
do. Later proofs cite these and unfold nothing. -/

namespace Sys2Proof.Machine

@[simp] theorem respond_eq (d1 d0 : Byte) (s : State) :
    respond d1 d0 s = .next (s.addResponse (okWord d1 d0)) := rfl

@[simp] theorem raise_eq (c : StatusCode) (s : State) : raise c s = .next (s.addResponse (faultWord c)) := rfl

@[simp] theorem failReceive_eq (c : StatusCode) (s : State) :
    failReceive c s = .next ({ s with rxstate := .idle }.addResponse (faultWord c)) := rfl

@[simp] theorem illegalCommand_eq (s : State) :
    illegalCommand s = .next (s.addResponse (faultWord .illegalOp)) := rfl

theorem runCommand_ok {w : CommandWord} {i : Instr} (s : State) (h : decode w = .ok i) :
    runCommand w s = exec i s := by simp [runCommand, h]

theorem runCommand_error {w : CommandWord} {e : DecodeError} (s : State) (h : decode w = .error e) :
    runCommand w s = illegalCommand s := by simp [runCommand, h]

@[simp] theorem finishFrame_eq (n : Nat) (chk : Byte) (s : State) :
    finishFrame n chk s =
      .next ({ s with txb := Memory.writePair s.txb n chk, acc := chk, txvalid := true }.addResponse
        (okWord chk (chk ^^^ 0xFF))) := rfl

@[simp] theorem latchResult_eq (code : Byte) (short : Bool) (s : State) :
    latchResult code short s =
      .next ({ s with ecode := code, emean := meaningIndex code, eshort := short, evalid := true }.addResponse
        (okWord (resultByte short (meaningIndex code)) code)) := rfl

@[simp] theorem offsetBelow_iff (a len : Byte) : offsetBelow a len = true ↔ a.toNat < len.toNat := by
  simp [offsetBelow]

/-- The verification ends with the frame held, or with ChecksumMismatch. -/
theorem verifyFrame_cases (len : Byte) (s : State) :
    (fold (Memory.slice s.rxb 0 (len.toNat - 2)) = Memory.read s.rxb (len.toNat - 2) ∧
      verifyFrame len s =
        .next ({ s with
          acc := fold (Memory.slice s.rxb 0 (len.toNat - 2)), rxlen := len, rxvalid := true,
          rxstate := .idle }.addResponse (okWord 0x00 len))) ∨
    (fold (Memory.slice s.rxb 0 (len.toNat - 2)) ≠ Memory.read s.rxb (len.toNat - 2) ∧
      verifyFrame len s =
        .next ({ s with
          acc := fold (Memory.slice s.rxb 0 (len.toNat - 2)), rxstate := .idle }.addResponse
            (faultWord .checksumMismatch))) := by
  unfold verifyFrame
  by_cases h : fold (Memory.slice s.rxb 0 (len.toNat - 2)) = Memory.read s.rxb (len.toNat - 2)
  · exact .inl ⟨h, if_pos h⟩
  · exact .inr ⟨h, if_neg h⟩

/-- The four ends of the header-reply step. -/
theorem headerReply_cases (r : List Byte) (s : State) :
    (r.length < 2 ∧ headerReply r s = failReceive .noReply s) ∨
    (∃ sof len, r = [sof, len] ∧ len.toNat < 2 ∧
      headerReply r s = failReceive .badLength (storeHeader sof len s)) ∨
    (∃ sof len, r = [sof, len] ∧ 2 ≤ len.toNat ∧
      headerReply r s = .next ({ storeHeader sof len s with rxstate := .body }.addRequest (len.toNat - 2))) ∨
    (2 < r.length ∧ headerReply r s = .refused .overlongReply) := by
  rcases r with _ | ⟨a, _ | ⟨b, _ | ⟨c, r⟩⟩⟩
  · exact .inl ⟨by simp, rfl⟩
  · exact .inl ⟨by simp, rfl⟩
  · by_cases h : b.toNat < 2
    · exact .inr (.inl ⟨a, b, rfl, h, if_pos h⟩)
    · exact .inr (.inr (.inl ⟨a, b, rfl, by omega, if_neg h⟩))
  · exact .inr (.inr (.inr ⟨by simp, rfl⟩))

/-- The four ends of the body-reply step. -/
theorem bodyReply_cases (r : List Byte) (s : State) :
    ((Memory.read s.rxb 1).toNat < 2 ∧ bodyReply r s = .fault .bodyLengthBelowTwo) ∨
    (2 ≤ (Memory.read s.rxb 1).toNat ∧ (Memory.read s.rxb 1).toNat - 2 < r.length ∧
      bodyReply r s = .refused .overlongReply) ∨
    (2 ≤ (Memory.read s.rxb 1).toNat ∧ r.length < (Memory.read s.rxb 1).toNat - 2 ∧
      bodyReply r s = failReceive .noReply s) ∨
    (2 ≤ (Memory.read s.rxb 1).toNat ∧ r.length = (Memory.read s.rxb 1).toNat - 2 ∧
      bodyReply r s = verifyFrame (Memory.read s.rxb 1) { s with rxb := Memory.writeList s.rxb 2 r }) := by
  unfold bodyReply
  by_cases h1 : (Memory.read s.rxb 1).toNat < 2
  · exact .inl ⟨h1, if_pos h1⟩
  · refine .inr ?_
    by_cases h2 : (Memory.read s.rxb 1).toNat - 2 < r.length
    · exact .inl ⟨by omega, h2, (if_neg h1).trans (if_pos h2)⟩
    · by_cases h3 : r.length < (Memory.read s.rxb 1).toNat - 2
      · exact .inr (.inl ⟨by omega, h3, (if_neg h1).trans ((if_neg h2).trans (if_pos h3))⟩)
      · exact .inr (.inr ⟨by omega, by omega, (if_neg h1).trans ((if_neg h2).trans (if_neg h3))⟩)

/-- The held command channel: the oldest external event is taken from behind the waiting commands. -/
theorem firstExternal_commands (cmds : List CommandWord) (e : External) (rest : List Input) :
    firstExternal (cmds.map Input.command ++ .external e :: rest) =
      some (.external e, cmds.map Input.command ++ rest) := by
  induction cmds with
  | nil => rfl
  | cons w cmds ih => simp [firstExternal, ih]

theorem firstExternal_none (cmds : List CommandWord) : firstExternal (cmds.map Input.command) = none := by
  induction cmds with
  | nil => rfl
  | cons w cmds ih => simp [firstExternal, ih]

/-- What `firstExternal` takes is an external event. -/
theorem firstExternal_external {l rest : List Input} {x : Input} (h : firstExternal l = some (x, rest)) :
    ∃ e, x = .external e := by
  induction l generalizing rest with
  | nil => cases h
  | cons y l ih =>
    cases y with
    | external e =>
      simp only [firstExternal, Option.some.injEq, Prod.mk.injEq] at h
      exact ⟨e, h.1.symm⟩
    | command w =>
      cases hl : firstExternal l with
      | none => simp [firstExternal, hl] at h
      | some p =>
        obtain ⟨y, r⟩ := p
        simp only [firstExternal, hl, Option.some.injEq, Prod.mk.injEq] at h
        exact ih (h.1 ▸ hl)

/-- Every step is one of four: nothing to take, an external event, an operation, an illegal word; the last
two only with RXSTATE IDLE. -/
theorem step_cases (s : State) :
    (nextInput s.rxstate s.inputs = none ∧ step s = noInput s) ∨
    (∃ e rest, nextInput s.rxstate s.inputs = some (.external e, rest) ∧
      step s = externalStep e { s with inputs := rest }) ∨
    (∃ w rest i, s.rxstate = .idle ∧ s.inputs = .command w :: rest ∧ decode w = .ok i ∧
      step s = exec i { s with inputs := rest }) ∨
    (∃ w rest e, s.rxstate = .idle ∧ s.inputs = .command w :: rest ∧ decode w = .error e ∧
      step s = illegalCommand { s with inputs := rest }) := by
  have idle_of (w rest) (hn : nextInput s.rxstate s.inputs = some (.command w, rest)) :
      s.rxstate = .idle ∧ s.inputs = .command w :: rest := by
    cases hs : s.rxstate <;> rw [hs] at hn
    · cases hl : s.inputs <;> rw [hl] at hn
      · cases hn
      · simp only [nextInput, Option.some.injEq, Prod.mk.injEq] at hn
        exact ⟨rfl, by rw [hn.1, hn.2]⟩
    all_goals
      obtain ⟨e, he⟩ := firstExternal_external hn
      cases he
  unfold step
  cases hn : nextInput s.rxstate s.inputs with
  | none => exact .inl ⟨rfl, rfl⟩
  | some p =>
    obtain ⟨x, rest⟩ := p
    cases x with
    | external e => exact .inr (.inl ⟨e, rest, rfl, rfl⟩)
    | command w =>
      obtain ⟨hi, hl⟩ := idle_of w rest hn
      cases hd : decode w with
      | ok i => exact .inr (.inr (.inl ⟨w, rest, i, hi, hl, hd, runCommand_ok _ hd⟩))
      | error e => exact .inr (.inr (.inr ⟨w, rest, e, hi, hl, hd, runCommand_error _ hd⟩))

end Sys2Proof.Machine
end

