-- ==== Sys2Proof/Laws/Decode.lean ====
section
/-! SUPPORT. The fields of a command word, and the decoder over fields. -/

namespace Sys2Proof

theorem getLsbD_commandWord (op a b : Byte) (i : Nat) :
    (commandWord op a b).getLsbD i =
      if i < 8 then b.getLsbD i else if i < 16 then a.getLsbD (i - 8) else op.getLsbD (i - 16) := by
  have h : (commandWord op a b).getLsbD i = (op ++ a ++ b).getLsbD i := rfl
  rw [h, BitVec.getLsbD_append, BitVec.getLsbD_append]
  split
  · rfl
  · by_cases h2 : i < 16
    · rw [if_pos h2, if_pos (by omega)]
    · rw [if_neg h2, if_neg (by omega), Nat.sub_sub]

@[simp] theorem opField_commandWord (op a b : Byte) : opField (commandWord op a b) = op := by
  apply BitVec.eq_of_getLsbD_eq
  intro i hi
  simp [opField, getLsbD_commandWord, hi, show ¬ 16 + i < 8 by omega]

@[simp] theorem aField_commandWord (op a b : Byte) : aField (commandWord op a b) = a := by
  apply BitVec.eq_of_getLsbD_eq
  intro i hi
  simp [aField, getLsbD_commandWord, hi, show 8 + i < 16 by omega]

@[simp] theorem bField_commandWord (op a b : Byte) : bField (commandWord op a b) = b := by
  apply BitVec.eq_of_getLsbD_eq
  intro i hi
  simp [bField, getLsbD_commandWord, hi]

/-- A command word is its three fields. -/
theorem commandWord_fields (w : CommandWord) : commandWord (opField w) (aField w) (bField w) = w := by
  unfold opField aField bField commandWord
  ext i hi
  simp only [BitVec.getElem_append, BitVec.getElem_extractLsb']
  split
  · simp [BitVec.getLsbD_eq_getElem hi]
  · split
    · rw [← BitVec.getLsbD_eq_getElem]; congr 1; omega
    · rw [← BitVec.getLsbD_eq_getElem]; congr 1; omega

theorem decode_commandWord (op a b : Byte) :
    decode (commandWord op a b) =
      match op.toNat with
      | 0x01 => decodeStrd a b
      | 0x02 => decodeNone .srst a b
      | 0x10 => decodeNone .ckclr a b
      | 0x11 => decodeOne .ckupd a b
      | 0x12 => decodeNone .ckrd a b
      | 0x20 => decodeNone .txclr a b
      | 0x21 => decodeOne .txpush a b
      | 0x22 => .ok (.txpoke a b)
      | 0x23 => decodeNone .txstamp a b
      | 0x24 => decodeNone .txseal a b
      | 0x25 => decodeOne .txrd a b
      | 0x30 => decodeNone .recv a b
      | 0x31 => decodeOne .rxrd a b
      | 0x40 => decodeNone .classify a b
      | 0x41 => decodeOne .emlook a b
      | _ => .error .unassignedOpcode := by
  unfold decode
  rw [opField_commandWord, aField_commandWord, bField_commandWord] <;> rfl

/-- Whatever the decoder rejects, the block answers IllegalOp. -/
theorem rejected_iff (w : CommandWord) : Machine.Rejected w ↔ ∃ e, decode w = .error e := by
  refine ⟨fun h => h.1, fun h => ⟨h, fun s => ?_⟩⟩
  obtain ⟨e, he⟩ := h
  rw [Machine.runCommand_error s he]
  rfl

end Sys2Proof
end

