-- ==== Sys2Proof/Laws/Exec.lean ====
section
/-! SUPPORT. What the meaning of an operation can do, said once: RECV's issue step, an answer OK after a
change that leaves the channels alone, or a fault that changes nothing. -/

namespace Sys2Proof.Machine

/-- The change an operation makes before it answers leaves the three channels as they were. -/
structure SameChannels (s u : State) : Prop where
  inputs : u.inputs = s.inputs
  responses : u.responses = s.responses
  requests : u.requests = s.requests

/-- An answer OK after a change that leaves the channels alone. -/
def AnswersOk (s : State) (o : Host.Outcome State Fault Refusal) : Prop :=
  ∃ d1 d0 u, o = .next (u.addResponse (okWord d1 d0)) ∧ SameChannels s u

/-- A fault, with nothing else changed (R194). -/
def AnswersFault (s : State) (o : Host.Outcome State Fault Refusal) : Prop :=
  ∃ c, c ≠ .ok ∧ o = .next (s.addResponse (faultWord c))

theorem execTxpush_cases (a : Byte) (s : State) :
    (s.txlen.toNat = 255 ∧ execTxpush a s = .next (s.addResponse (faultWord .frameTooLong))) ∨
    (s.txlen.toNat < 255 ∧ execTxpush a s =
      .next ({ s with
        txb := Memory.write s.txb s.txlen.toNat a, txlen := s.txlen + 1, txvalid := false }.addResponse
          (okWord 0x00 (s.txlen + 1)))) := by
  have := s.txlen.isLt
  unfold execTxpush
  by_cases h : s.txlen.toNat = 255
  · exact .inl ⟨h, if_pos h⟩
  · exact .inr ⟨by omega, if_neg h⟩

theorem execTxpoke_cases (a b : Byte) (s : State) :
    (s.txlen.toNat ≤ a.toNat ∧ execTxpoke a b s = .next (s.addResponse (faultWord .badOffset))) ∨
    (a.toNat < s.txlen.toNat ∧ execTxpoke a b s =
      .next ({ s with txb := Memory.write s.txb a.toNat b, txvalid := false }.addResponse
        (okWord 0x00 0x00))) := by
  unfold execTxpoke
  by_cases h : a.toNat < s.txlen.toNat
  · exact .inr ⟨h, if_pos ((offsetBelow_iff _ _).2 h)⟩
  · exact .inl ⟨by omega, if_neg (mt (offsetBelow_iff _ _).1 h)⟩

theorem execTxstamp_cases (s : State) :
    (s.txlen.toNat < 2 ∧ execTxstamp s = .next (s.addResponse (faultWord .frameTooShort))) ∨
    (2 ≤ s.txlen.toNat ∧ execTxstamp s =
      finishFrame (s.txlen.toNat - 2) (fold (Memory.slice s.txb 0 (s.txlen.toNat - 2))) s) := by
  unfold execTxstamp
  by_cases h : s.txlen.toNat < 2
  · exact .inl ⟨h, if_pos h⟩
  · exact .inr ⟨by omega, if_neg h⟩

theorem execTxseal_cases (s : State) :
    (s.txlen.toNat < 2 ∧ execTxseal s = .next (s.addResponse (faultWord .frameTooShort))) ∨
    (253 < s.txlen.toNat ∧ execTxseal s = .next (s.addResponse (faultWord .frameTooLong))) ∨
    (2 ≤ s.txlen.toNat ∧ s.txlen.toNat ≤ 253 ∧ execTxseal s =
      finishFrame s.txlen.toNat (fold (Memory.slice (injectLength s) 0 s.txlen.toNat))
        { s with txb := injectLength s, txlen := s.txlen + 2 }) := by
  unfold execTxseal
  by_cases h : s.txlen.toNat < 2
  · exact .inl ⟨h, if_pos h⟩
  · by_cases h2 : 253 < s.txlen.toNat
    · exact .inr (.inl ⟨h2, (if_neg h).trans (if_pos h2)⟩)
    · exact .inr (.inr ⟨by omega, by omega, (if_neg h).trans (if_neg h2)⟩)

theorem execTxrd_cases (a : Byte) (s : State) :
    (s.txlen.toNat ≤ a.toNat ∧ execTxrd a s = .next (s.addResponse (faultWord .badOffset))) ∨
    (a.toNat < s.txlen.toNat ∧ execTxrd a s =
      .next (s.addResponse (okWord 0x00 (Memory.read s.txb a.toNat)))) := by
  unfold execTxrd
  by_cases h : a.toNat < s.txlen.toNat
  · exact .inr ⟨h, if_pos ((offsetBelow_iff _ _).2 h)⟩
  · exact .inl ⟨by omega, if_neg (mt (offsetBelow_iff _ _).1 h)⟩

theorem execRxrd_cases (a : Byte) (s : State) :
    (s.rxvalid = false ∧ execRxrd a s = .next (s.addResponse (faultWord .noFrame))) ∨
    (s.rxvalid = true ∧ s.rxlen.toNat ≤ a.toNat ∧
      execRxrd a s = .next (s.addResponse (faultWord .badOffset))) ∨
    (s.rxvalid = true ∧ a.toNat < s.rxlen.toNat ∧ execRxrd a s =
      .next (s.addResponse (okWord 0x00 (Memory.read s.rxb a.toNat)))) := by
  unfold execRxrd
  by_cases hv : s.rxvalid = true
  · by_cases h : a.toNat < s.rxlen.toNat
    · exact .inr (.inr ⟨hv, h, (if_pos hv).trans (if_pos ((offsetBelow_iff _ _).2 h))⟩)
    · exact .inr (.inl ⟨hv, by omega, (if_pos hv).trans (if_neg (mt (offsetBelow_iff _ _).1 h))⟩)
  · exact .inl ⟨by simpa using hv, if_neg hv⟩

theorem execClassify_cases (s : State) :
    (s.rxvalid = false ∧ execClassify s = .next (s.addResponse (faultWord .noFrame))) ∨
    (s.rxvalid = true ∧ execClassify s = latchResult (classifyRegisters s).1 (classifyRegisters s).2 s) := by
  unfold execClassify
  by_cases hv : s.rxvalid = true
  · exact .inr ⟨hv, if_pos hv⟩
  · exact .inl ⟨by simpa using hv, if_neg hv⟩

theorem execStrd_cases (a : Byte) (s : State) :
    (∃ d1 d0, execStrd a s = .next (s.addResponse (okWord d1 d0))) ∨
      execStrd a s = .next (s.addResponse (faultWord .illegalOp)) := by
  unfold execStrd
  split
  · exact .inl ⟨_, _, rfl⟩
  · exact .inl ⟨_, _, rfl⟩
  · exact .inl ⟨_, _, rfl⟩
  · exact .inl ⟨_, _, rfl⟩
  · exact .inr rfl

/-- The three things a meaning can do. -/
theorem exec_cases (i : Instr) (s : State) :
    (i = .recv ∧ exec i s = execRecv s) ∨ AnswersOk s (exec i s) ∨ AnswersFault s (exec i s) := by
  have ok (o d1 d0 u) (h : o = .next (State.addResponse u (okWord d1 d0))) (hc : SameChannels s u) :
      i = .recv ∧ exec i s = execRecv s ∨ AnswersOk s o ∨ AnswersFault s o :=
    .inr (.inl ⟨d1, d0, u, h, hc⟩)
  have bad (o c) (hc : c ≠ .ok) (h : o = .next (State.addResponse s (faultWord c))) :
      i = .recv ∧ exec i s = execRecv s ∨ AnswersOk s o ∨ AnswersFault s o :=
    .inr (.inr ⟨c, hc, h⟩)
  cases i with
  | strd a =>
    rcases execStrd_cases a s with ⟨d1, d0, h⟩ | h
    · exact ok _ _ _ _ h ⟨rfl, rfl, rfl⟩
    · exact bad _ _ (by decide) h
  | srst => exact ok _ _ _ _ rfl ⟨rfl, rfl, rfl⟩
  | ckclr => exact ok _ _ _ { s with acc := 0x00 } rfl ⟨rfl, rfl, rfl⟩
  | ckupd a => exact ok _ _ _ { s with acc := s.acc ^^^ a } rfl ⟨rfl, rfl, rfl⟩
  | ckrd => exact ok _ _ _ s rfl ⟨rfl, rfl, rfl⟩
  | txclr => exact ok _ _ _ { s with txlen := 0, txvalid := false } rfl ⟨rfl, rfl, rfl⟩
  | txpush a =>
    rcases execTxpush_cases a s with ⟨_, h⟩ | ⟨_, h⟩
    · exact bad _ _ (by decide) h
    · exact ok _ _ _ _ h ⟨rfl, rfl, rfl⟩
  | txpoke a b =>
    rcases execTxpoke_cases a b s with ⟨_, h⟩ | ⟨_, h⟩
    · exact bad _ _ (by decide) h
    · exact ok _ _ _ _ h ⟨rfl, rfl, rfl⟩
  | txstamp =>
    rcases execTxstamp_cases s with ⟨_, h⟩ | ⟨_, h⟩
    · exact bad _ _ (by decide) h
    · exact ok _ _ _ _ h ⟨rfl, rfl, rfl⟩
  | txseal =>
    rcases execTxseal_cases s with ⟨_, h⟩ | ⟨_, h⟩ | ⟨_, _, h⟩
    · exact bad _ _ (by decide) h
    · exact bad _ _ (by decide) h
    · exact ok _ _ _ _ h ⟨rfl, rfl, rfl⟩
  | txrd a =>
    rcases execTxrd_cases a s with ⟨_, h⟩ | ⟨_, h⟩
    · exact bad _ _ (by decide) h
    · exact ok _ _ _ _ h ⟨rfl, rfl, rfl⟩
  | recv => exact .inl ⟨rfl, rfl⟩
  | rxrd a =>
    rcases execRxrd_cases a s with ⟨_, h⟩ | ⟨_, _, h⟩ | ⟨_, _, h⟩
    · exact bad _ _ (by decide) h
    · exact bad _ _ (by decide) h
    · exact ok _ _ _ _ h ⟨rfl, rfl, rfl⟩
  | classify =>
    rcases execClassify_cases s with ⟨_, h⟩ | ⟨_, h⟩
    · exact bad _ _ (by decide) h
    · exact ok _ _ _ _ h ⟨rfl, rfl, rfl⟩
  | emlook a => exact ok _ _ _ s rfl ⟨rfl, rfl, rfl⟩

end Sys2Proof.Machine
end

