-- ==== Sys2Proof/Laws/Memory.lean ====
section
/-! SUPPORT. The laws of the buffers: canonical form, read after write, slices. -/

namespace Sys2Proof.Machine

theorem wfFrom_cons {lo a : Nat} {v : Byte} {m : Memory} :
    Memory.wfFrom lo ((a, v) :: m) = true ↔
      lo ≤ a ∧ a < Config.bufDepth ∧ v ≠ Config.unlistedByte ∧ Memory.wfFrom (a + 1) m = true := by
  simp [Memory.wfFrom, and_assoc]

theorem wfFrom_mono {lo lo' : Nat} {m : Memory} (h : lo' ≤ lo) (hm : Memory.wfFrom lo m = true) :
    Memory.wfFrom lo' m = true := by
  cases m with
  | nil => rfl
  | cons c m =>
    obtain ⟨b, w⟩ := c
    rw [wfFrom_cons] at hm ⊢
    exact ⟨by omega, hm.2⟩

theorem read_below {m : Memory} {lo a : Nat} (hm : Memory.wfFrom lo m = true) (h : a < lo) :
    Memory.read m a = Config.unlistedByte := by
  induction m generalizing lo with
  | nil => rfl
  | cons c m ih =>
    obtain ⟨b, w⟩ := c
    rw [wfFrom_cons] at hm
    have hne : a ≠ b := by omega
    simp only [Memory.read, hne, if_false]
    exact ih hm.2.2.2 (by omega)

theorem wfFrom_write {m : Memory} {lo a : Nat} (v : Byte) (hm : Memory.wfFrom lo m = true) (hlo : lo ≤ a)
    (ha : a < Config.bufDepth) : Memory.wfFrom lo (Memory.write m a v) = true := by
  induction m generalizing lo with
  | nil =>
    simp only [Memory.write]
    split
    · rfl
    · exact wfFrom_cons.2 ⟨hlo, ha, ‹_›, rfl⟩
  | cons c m ih =>
    obtain ⟨b, w⟩ := c
    have hc := wfFrom_cons.1 hm
    simp only [Memory.write]
    split
    · split
      · exact hm
      · exact wfFrom_cons.2 ⟨hlo, ha, ‹_›, wfFrom_cons.2 ⟨by omega, hc.2⟩⟩
    · split
      · split
        · exact wfFrom_mono (by omega) hc.2.2.2
        · exact wfFrom_cons.2 ⟨hlo, ha, ‹_›, wfFrom_mono (by omega) hc.2.2.2⟩
      · exact wfFrom_cons.2 ⟨hc.1, hc.2.1, hc.2.2.1, ih hc.2.2.2 (by omega)⟩

/-- A write keeps the canonical form. -/
theorem wf_write {m : Memory} {a : Nat} (v : Byte) (hm : Memory.wf m = true) (ha : a < Config.bufDepth) :
    Memory.wf (Memory.write m a v) = true :=
  wfFrom_write v hm (Nat.zero_le a) ha

/-- A run of writes keeps the canonical form. -/
theorem wf_writeList {m : Memory} {a : Nat} {vs : List Byte} (hm : Memory.wf m = true)
    (ha : a + vs.length ≤ Config.bufDepth) : Memory.wf (Memory.writeList m a vs) = true := by
  induction vs generalizing m a with
  | nil => exact hm
  | cons v vs ih =>
    simp only [List.length_cons] at ha
    exact ih (wf_write v hm (by omega)) (by omega)

/-- The pair of a stamp or seal keeps the canonical form. -/
theorem wf_writePair {m : Memory} {n : Nat} (chk : Byte) (hm : Memory.wf m = true)
    (hn : n + 1 < Config.bufDepth) : Memory.wf (Memory.writePair m n chk) = true :=
  wf_write _ (wf_write _ hm (by omega)) hn

theorem read_write_from {m : Memory} {lo : Nat} (a b : Nat) (v : Byte) (hm : Memory.wfFrom lo m = true) :
    Memory.read (Memory.write m a v) b = if b = a then v else Memory.read m b := by
  induction m generalizing lo with
  | nil =>
    by_cases hv : v = Config.unlistedByte
    · simp [Memory.write, Memory.read, hv]
    · simp [Memory.write, Memory.read, hv]
  | cons c m ih =>
    obtain ⟨d, w⟩ := c
    have hc := wfFrom_cons.1 hm
    simp only [Memory.write]
    split
    · rename_i hlt
      split
      · rename_i hv
        by_cases hb : b = a
        · rw [if_pos hb, hb, hv]
          exact read_below (lo := d) (wfFrom_cons.2 ⟨Nat.le_refl d, hc.2⟩) hlt
        · rw [if_neg hb]
      · simp only [Memory.read]
    · split
      · rename_i hd
        subst hd
        split
        · rename_i hv
          by_cases hb : b = a
          · rw [if_pos hb, hb, hv]
            exact read_below hc.2.2.2 (by omega)
          · simp only [Memory.read, hb, if_false]
        · simp only [Memory.read]
          by_cases hb : b = a <;> simp [hb]
      · simp only [Memory.read, ih hc.2.2.2]
        by_cases hb : b = d
        · rw [if_pos hb, if_pos hb, if_neg (by omega)]
        · rw [if_neg hb, if_neg hb]

/-- Read after write. -/
theorem read_write {m : Memory} (a b : Nat) (v : Byte) (hm : Memory.wf m = true) :
    Memory.read (Memory.write m a v) b = if b = a then v else Memory.read m b :=
  read_write_from a b v hm

/-- Read after a run of writes. -/
theorem read_writeList {m : Memory} {a : Nat} {vs : List Byte} (b : Nat) (hm : Memory.wf m = true)
    (ha : a + vs.length ≤ Config.bufDepth) :
    Memory.read (Memory.writeList m a vs) b =
      if a ≤ b ∧ b < a + vs.length then vs.getD (b - a) 0x00 else Memory.read m b := by
  induction vs generalizing m a with
  | nil =>
    rw [if_neg (by simp only [List.length_nil]; omega)]
    rfl
  | cons v vs ih =>
    simp only [List.length_cons] at ha
    rw [Memory.writeList, ih (wf_write v hm (by omega)) (by omega), read_write a b v hm]
    by_cases h1 : b = a
    · subst h1
      simp
    · by_cases h2 : a + 1 ≤ b ∧ b < a + 1 + vs.length
      · have hs : b - a = (b - (a + 1)) + 1 := by omega
        rw [if_pos h2, if_pos (by simp only [List.length_cons]; omega), hs, List.getD_cons_succ]
      · rw [if_neg h2, if_neg h1, if_neg (by simp only [List.length_cons]; omega)]

theorem ext_from {lo : Nat} {m m' : Memory} (hm : Memory.wfFrom lo m = true) (hm' : Memory.wfFrom lo m' = true)
    (h : ∀ a, Memory.read m a = Memory.read m' a) : m = m' := by
  induction m generalizing lo m' with
  | nil =>
    cases m' with
    | nil => rfl
    | cons c m' =>
      obtain ⟨b, w⟩ := c
      have := h b
      simp only [Memory.read, if_true] at this
      exact absurd this.symm (wfFrom_cons.1 hm').2.2.1
  | cons c m ih =>
    obtain ⟨b, w⟩ := c
    have hc := wfFrom_cons.1 hm
    cases m' with
    | nil =>
      have := h b
      simp only [Memory.read, if_true] at this
      exact absurd this hc.2.2.1
    | cons c' m' =>
      obtain ⟨b', w'⟩ := c'
      have hc' := wfFrom_cons.1 hm'
      have hb := h b
      have hb' := h b'
      simp only [Memory.read, if_true] at hb hb'
      have heq : b = b' := by
        rcases Nat.lt_trichotomy b b' with hlt | heq | hlt
        · rw [if_neg (by omega), read_below hc'.2.2.2 (by omega)] at hb
          exact absurd hb hc.2.2.1
        · exact heq
        · rw [if_neg (by omega), read_below hc.2.2.2 (by omega)] at hb'
          exact absurd hb'.symm hc'.2.2.1
      subst heq
      rw [if_pos rfl] at hb
      subst hb
      have := ih hc.2.2.2 hc'.2.2.2 fun a => by
        by_cases ha : a = b
        · rw [ha, read_below hc.2.2.2 (by omega), read_below hc'.2.2.2 (by omega)]
        · have := h a
          simpa only [Memory.read, ha, if_false] using this
      rw [this]

/-- Two buffers in canonical form with equal contents are equal data. -/
theorem memory_ext {m m' : Memory} (hm : Memory.wf m = true) (hm' : Memory.wf m' = true)
    (h : ∀ a, Memory.read m a = Memory.read m' a) : m = m' :=
  ext_from hm hm' h

@[simp] theorem length_slice (m : Memory) (lo hi : Nat) : (Memory.slice m lo hi).length = hi - lo := by
  simp [Memory.slice]

/-- A slice depends on the bytes of its range alone. -/
theorem slice_congr {m m' : Memory} {lo hi : Nat}
    (h : ∀ i, lo ≤ i → i < hi → Memory.read m i = Memory.read m' i) :
    Memory.slice m lo hi = Memory.slice m' lo hi := by
  refine List.map_congr_left fun i hi' => ?_
  rw [List.mem_range'_1] at hi'
  exact h i (by omega) (by omega)

theorem slice_getElem? (m : Memory) (lo hi i : Nat) (h : i < hi - lo) :
    (Memory.slice m lo hi)[i]? = some (Memory.read m (lo + i)) := by
  simp [Memory.slice, List.getElem?_range' h]

/-- Byte `i` of a slice. -/
theorem slice_getD (m : Memory) (lo hi i : Nat) (v : Byte) (h : i < hi - lo) :
    (Memory.slice m lo hi).getD i v = Memory.read m (lo + i) := by
  simp [List.getD, slice_getElem? m lo hi i h]

@[simp] theorem slice_self (m : Memory) (lo : Nat) : Memory.slice m lo lo = [] := by
  simp [Memory.slice]

/-- A slice one byte longer. -/
theorem slice_succ (m : Memory) {lo hi : Nat} (h : lo ≤ hi) :
    Memory.slice m lo (hi + 1) = Memory.slice m lo hi ++ [Memory.read m hi] := by
  have : hi + 1 - lo = (hi - lo) + 1 := by omega
  simp [Memory.slice, this, List.range'_concat, show lo + (hi - lo) = hi from by omega]

/-- A slice cut in two. -/
theorem slice_append (m : Memory) {lo mid hi : Nat} (h1 : lo ≤ mid) (h2 : mid ≤ hi) :
    Memory.slice m lo hi = Memory.slice m lo mid ++ Memory.slice m mid hi := by
  obtain ⟨k, rfl⟩ := Nat.exists_eq_add_of_le h2
  clear h2
  induction k with
  | zero => simp
  | succ k ih =>
    rw [← Nat.add_assoc, slice_succ m (by omega), slice_succ m (by omega), ih, List.append_assoc]

end Sys2Proof.Machine
end

