-- ==== Sys2Proof/Laws/Functions.lean ====
section
/-! SUPPORT. Slices of buffers cut and joined, the pure classification on a held frame, sequences joined. -/

namespace Sys2Proof.Machine

theorem slice_take (m : Memory) (n k : Nat) (h : k ≤ n) :
    (Memory.slice m 0 n).take k = Memory.slice m 0 k := by
  rw [slice_append m (Nat.zero_le k) h]
  simp

theorem slice_drop (m : Memory) (n k : Nat) (h : k ≤ n) :
    (Memory.slice m 0 n).drop k = Memory.slice m k n := by
  rw [slice_append m (Nat.zero_le k) h]
  simp

theorem slice_cons (m : Memory) (lo hi : Nat) (h : lo < hi) :
    Memory.slice m lo hi = Memory.read m lo :: Memory.slice m (lo + 1) hi := by
  rw [slice_append m (Nat.le_succ lo) h, slice_succ m (Nat.le_refl lo)]
  simp

theorem read_writePair (m : Memory) (n j : Nat) (c : Byte) (h : Memory.wf m = true) (hn : n + 1 < 255) :
    Memory.read (Memory.writePair m n c) j =
      if j = n + 1 then c ^^^ 0xFF else if j = n then c else Memory.read m j := by
  unfold Memory.writePair
  rw [read_write _ _ _ (wf_write _ h (by simp only [Config.bufDepth]; omega)), read_write _ _ _ h]

theorem applyMutations_length {ms : List (Byte × Byte)} {t u : List Byte} (h : applyMutations t ms = some u) :
    u.length = t.length := by
  induction ms generalizing t with
  | nil => cases h; rfl
  | cons m ms ih =>
    simp only [applyMutations] at h
    split at h
    · rw [ih h, List.length_set]
    · cases h

/-- `stampBytes` keeps the length, and is defined on 2 to 255 bytes (log 17). -/
theorem stampBytes_length {t f : List Byte} (h : stampBytes t = some f) :
    2 ≤ t.length ∧ t.length ≤ 255 ∧ f.length = t.length := by
  simp only [stampBytes, Config.minFrame, Config.bufDepth] at h
  split at h
  · cases h
  · cases h
    simp only [List.length_append, List.length_take, List.length_cons, List.length_nil]
    omega

/-- CLASSIFY reads of RXB what the pure function reads of the held frame (R140, R142). -/
theorem classify_rxFrame (s : State) : classify s.rxFrame = classifyRegisters s := by
  unfold classify classifyRegisters State.rxFrame
  rw [length_slice, Nat.sub_zero]
  by_cases h : s.rxlen.toNat = 11
  · rw [h, slice_getD _ _ _ _ _ (by omega), slice_getD _ _ _ _ _ (by omega)]
    simp
  · by_cases h2 : s.rxlen.toNat = 10
    · rw [h2]
      simp only [show ¬ (10 = 11) by decide, false_and, if_false]
      rw [slice_getD _ _ _ _ _ (by omega), slice_getD _ _ _ _ _ (by omega)]
    · simp [h, h2]

theorem execAll_append (a b : List Instr) (s : State) :
    execAll (a ++ b) s =
      match execAll a s with
      | .next t => execAll b t
      | .fault r => .fault r
      | .refused r => .refused r := by
  induction a generalizing s with
  | nil => rfl
  | cons i a ih =>
    simp only [List.cons_append, execAll]
    cases exec i s <;> simp [ih]

end Sys2Proof.Machine
end

