-- ==== Sys2Proof/Laws/PerInstr.lean ====
section
/-! SUPPORT. Per-instruction family EncodeRow: the word of a well-formed operation passes the mask test of
the row of the opcode map that bears its mnemonic (R73). -/

namespace Sys2Proof.Laws.EncodeRow

/-- The row of the opcode map that bears the operation's mnemonic accepts its word. -/
def Statement (i : Instr) : Prop :=
  i.wellFormed = true → ∀ r ∈ opcodeTable, r.mnemonic = i.mnemonic → r.accepts (encode i) = true

/-- A mask that leaves a field alone passes every value of it. -/
theorem accepts_commandWord (name : String) (op a b ma mb pa pb : Byte) (ha : a &&& ma = pa)
    (hb : b &&& mb = pb) :
    (OpcodeRow.mk name (commandWord op pa pb) (commandWord 0xFF ma mb)).accepts (commandWord op a b) = true := by
  have h : op &&& 0xFF#8 = op := BitVec.and_allOnes
  have e : commandWord op a b &&& commandWord 0xFF ma mb = commandWord op pa pb := by
    show (op ++ a ++ b) &&& (0xFF#8 ++ ma ++ mb) = op ++ pa ++ pb
    rw [BitVec.and_append, BitVec.and_append, h, ha, hb]
  simp only [OpcodeRow.accepts, e, beq_self_eq_true]

theorem srst : Statement .srst := by unfold Statement; decide
theorem ckclr : Statement .ckclr := by unfold Statement; decide
theorem ckrd : Statement .ckrd := by unfold Statement; decide
theorem txclr : Statement .txclr := by unfold Statement; decide
theorem txstamp : Statement .txstamp := by unfold Statement; decide
theorem txseal : Statement .txseal := by unfold Statement; decide
theorem recv : Statement .recv := by unfold Statement; decide
theorem classify : Statement .classify := by unfold Statement; decide

/-- The row of a mnemonic is the one the table lists under it. -/
theorem row_of (P : OpcodeRow → Prop) (m : String) (r₀ : OpcodeRow)
    (h : opcodeTable.filter (fun r => r.mnemonic == m) = [r₀]) (h₀ : P r₀) :
    ∀ r ∈ opcodeTable, r.mnemonic = m → P r := fun r hr hm => by
  have : r ∈ opcodeTable.filter (fun r => r.mnemonic == m) := List.mem_filter.2 ⟨hr, by simp [hm]⟩
  rw [h, List.mem_singleton] at this
  exact this ▸ h₀

theorem strd (a : Byte) : Statement (.strd a) := fun h =>
  row_of (fun r => r.accepts (encode (.strd a)) = true) "STRD" ⟨"STRD", 0x010000, 0xFFFCFF⟩ (by decide)
    (accepts_commandWord _ 0x01 a 0 0xFC 0xFF 0 0
      (by
        have h4 : a.toNat < 4 := by simpa [Instr.wellFormed] using h
        have key : ∀ n : Fin 4, BitVec.ofNat 8 n.val &&& 0xFC#8 = 0#8 := by decide
        have := key ⟨a.toNat, h4⟩
        simpa using this)
      (by decide))

theorem ckupd (a : Byte) : Statement (.ckupd a) := fun _ =>
  row_of (fun r => r.accepts (encode (.ckupd a)) = true) "CKUPD" ⟨"CKUPD", 0x110000, 0xFF00FF⟩ (by decide)
    (accepts_commandWord _ 0x11 a 0 0 0xFF 0 0 (by simp) (by decide))

theorem txpush (a : Byte) : Statement (.txpush a) := fun _ =>
  row_of (fun r => r.accepts (encode (.txpush a)) = true) "TXPUSH" ⟨"TXPUSH", 0x210000, 0xFF00FF⟩ (by decide)
    (accepts_commandWord _ 0x21 a 0 0 0xFF 0 0 (by simp) (by decide))

theorem txpoke (a b : Byte) : Statement (.txpoke a b) := fun _ =>
  row_of (fun r => r.accepts (encode (.txpoke a b)) = true) "TXPOKE" ⟨"TXPOKE", 0x220000, 0xFF0000⟩ (by decide)
    (accepts_commandWord _ 0x22 a b 0 0 0 0 (by simp) (by simp))

theorem txrd (a : Byte) : Statement (.txrd a) := fun _ =>
  row_of (fun r => r.accepts (encode (.txrd a)) = true) "TXRD" ⟨"TXRD", 0x250000, 0xFF00FF⟩ (by decide)
    (accepts_commandWord _ 0x25 a 0 0 0xFF 0 0 (by simp) (by decide))

theorem rxrd (a : Byte) : Statement (.rxrd a) := fun _ =>
  row_of (fun r => r.accepts (encode (.rxrd a)) = true) "RXRD" ⟨"RXRD", 0x310000, 0xFF00FF⟩ (by decide)
    (accepts_commandWord _ 0x31 a 0 0 0xFF 0 0 (by simp) (by decide))

theorem emlook (a : Byte) : Statement (.emlook a) := fun _ =>
  row_of (fun r => r.accepts (encode (.emlook a)) = true) "EMLOOK" ⟨"EMLOOK", 0x410000, 0xFF00FF⟩ (by decide)
    (accepts_commandWord _ 0x41 a 0 0 0xFF 0 0 (by simp) (by decide))

end Sys2Proof.Laws.EncodeRow
end

