-- ==== Sys2Proof/Tests/Slice0.lean ====
section
/-! SUPPORT. Tests, each from a worked example of the spec named beside it, and for each statement with
hypotheses a concrete input that meets them. -/

namespace Sys2Proof.Tests

open Sys2Proof Sys2Proof.Machine

/-! Small states. -/

/-- A block with `bytes` loaded in TXB. -/
def loaded (bytes : List Byte) (valid : Bool) : State :=
  { State.reset with
    txb := Memory.writeList [] 0 bytes, txlen := BitVec.ofNat 8 bytes.length, txvalid := valid }

/-- A block that holds `bytes` as its validated frame. -/
def holding (bytes : List Byte) : State :=
  { State.reset with
    rxb := Memory.writeList [] 0 bytes, rxlen := BitVec.ofNat 8 bytes.length, rxvalid := true }

/-- A block that waits for a reply, with `bytes` in RXB. -/
def waiting (stage : RxState) (bytes : List Byte) : State :=
  { State.reset with
    acc := 0x5A, rxb := Memory.writeList [] 0 bytes, rxstate := stage
    requests := match stage with
      | .idle => []
      | .hdr => [2]
      | .body => [2, (bytes.getD 1 0).toNat - 2] }

def carrier (flag : Byte) : List Byte := [0x01, 0x0A, 0, 0, 0, 0, 0xF4, flag, 0, 0]
def envelope : List Byte := [0x01, 0x00, 0, 0, 0, 0x60, 0xAA, 0x55, 0x01, 0x00]
def isoError : List Byte := [0x01, 0x0B, 0, 0, 0, 0, 0, 0x01, 0x10, 0x1B, 0xE4]
def shortError : List Byte := [0x01, 0x0A, 0, 0, 0, 0x01, 0, 0x12, 0x18, 0xE7]

/-- The response words of an outcome. -/
def answers : Host.Outcome State Fault Refusal → Option (List ResponseWord)
  | .next s => some s.responses
  | .fault _ => none
  | .refused _ => none

/-- One view of the next state of an outcome. -/
def after {α : Type} (f : State → α) : Host.Outcome State Fault Refusal → Option α
  | .next s => some (f s)
  | .fault _ => none
  | .refused _ => none

/-! Well-formedness. -/

theorem test_strd_4_refused : Instr.wellFormed (.strd 4) = false := by decide
theorem test_strd_3_accepted : Instr.wellFormed (.strd 3) = true := by decide

/-! Decoding: the words bit by bit, from the format of R70 and the op column of R73. -/

theorem test_decode_system :
    decode 0b00000001_00000010_00000000 = .ok (.strd 2) ∧ decode 0b00000010_00000000_00000000 = .ok .srst := by
  decide

theorem test_decode_checksum :
    decode 0b00010000_00000000_00000000 = .ok .ckclr ∧
      decode 0b00010001_10000001_00000000 = .ok (.ckupd 0x81) ∧
      decode 0b00010010_00000000_00000000 = .ok .ckrd := by
  decide

theorem test_decode_builder :
    decode 0b00100000_00000000_00000000 = .ok .txclr ∧
      decode 0b00100001_11111110_00000000 = .ok (.txpush 0xFE) ∧
      decode 0b00100010_00000111_11110000 = .ok (.txpoke 0x07 0xF0) ∧
      decode 0b00100011_00000000_00000000 = .ok .txstamp ∧
      decode 0b00100100_00000000_00000000 = .ok .txseal ∧
      decode 0b00100101_00001000_00000000 = .ok (.txrd 0x08) := by
  decide

theorem test_decode_parser :
    decode 0b00110000_00000000_00000000 = .ok .recv ∧
      decode 0b00110001_00010000_00000000 = .ok (.rxrd 0x10) := by
  decide

theorem test_decode_decoder :
    decode 0b01000000_00000000_00000000 = .ok .classify ∧
      decode 0b01000001_00010101_00000000 = .ok (.emlook 0x15) := by
  decide

/-- The illegal words of V-SYS 6, 8, 9, V-FBU 30 and V-RPU 20. -/
theorem test_decode_rejects :
    decode 0x000000 = .error .unassignedOpcode ∧ decode 0x030000 = .error .unassignedOpcode ∧
      decode 0x260000 = .error .unassignedOpcode ∧ decode 0xFFFFFF = .error .unassignedOpcode ∧
      decode 0x010400 = .error .noSuchStatusRegister ∧ decode 0x010001 = .error .unusedOperandNotZero ∧
      decode 0x020100 = .error .unusedOperandNotZero ∧ decode 0x210001 = .error .unusedOperandNotZero ∧
      decode 0x300100 = .error .unusedOperandNotZero := by
  decide

/-- Bit 0 is the least significant bit of the word (R70). -/
theorem test_decodeTableWord :
    decodeTableWord 24 0x2207FF = some (.txpoke 7 0xFF) ∧ decodeTableWord 24 0x010400 = none := by
  decide

/-! One step of each operation. -/

/-- V-SYS 4, in the state of V-EDU 2. -/
theorem test_strd_result :
    answers (exec (.strd 3) { holding shortError with ecode := 0x12, emean := 6, eshort := true, evalid := true }) =
      some [0x008612] := by
  decide

/-- V-SYS 2. -/
theorem test_strd_flags : answers (exec (.strd 0) (loaded (carrier 0xFF) true)) = some [0x000001] := by decide

/-- R152's example. -/
theorem test_srst :
    after id (exec .srst { loaded (carrier 0xFF) true with acc := 0x93, rxlen := 11, rxvalid := true }) =
      some { State.reset with txb := (loaded (carrier 0xFF) true).txb, responses := [0x000000] } := by
  decide

/-- R93's example. -/
theorem test_ckclr :
    after id (exec .ckclr { State.reset with acc := 0x5A }) = some { State.reset with responses := [0x000000] } := by
  decide

/-- R94's example. -/
theorem test_ckupd :
    after id (exec (.ckupd 0xF4) { State.reset with acc := 0x0B }) =
      some { State.reset with acc := 0xFF, responses := [0x0000FF] } := by
  decide

/-- R95's example. -/
theorem test_ckrd :
    after id (exec .ckrd { State.reset with acc := 0xF8 }) =
      some { State.reset with acc := 0xF8, responses := [0x00F807] } := by
  decide

/-- R100's example: the bytes stay. -/
theorem test_txclr :
    after id (exec .txclr (loaded [0x01, 0x02] true)) =
      some { State.reset with txb := [(0, 0x01), (1, 0x02)], responses := [0x000000] } := by
  decide

/-- R101's example. -/
theorem test_txpush :
    after id (exec (.txpush 0x01) State.reset) =
      some { State.reset with txb := [(0, 0x01)], txlen := 1, responses := [0x000001] } := by
  decide

/-- V-FBU 22. -/
theorem test_txpush_full :
    answers (exec (.txpush 0x00) { State.reset with txlen := 255 }) = some [0x120000] := by
  decide

/-- R102's example. -/
theorem test_txpoke :
    after (fun t => (Memory.read t.txb 7, t.txvalid, t.responses)) (exec (.txpoke 7 0xFF) (loaded (carrier 0) true)) =
      some (0xFF, false, [0x000000]) := by
  decide

/-- R103's example (V-FBU 12). -/
theorem test_txstamp :
    after (fun t => (t.txFrame, t.acc, t.txvalid, t.responses)) (exec .txstamp (loaded (carrier 0xFF) false)) =
      some ([0x01, 0x0A, 0, 0, 0, 0, 0xF4, 0xFF, 0x00, 0xFF], 0x00, true, [0x0000FF]) := by
  decide

/-- The empty fold: two loaded bytes become 00 FF (R103). -/
theorem test_txstamp_two :
    after (fun t => (t.txFrame, t.txvalid)) (exec .txstamp (loaded [0x77, 0x77] false)) =
      some ([0x00, 0xFF], true) := by
  decide

/-- R105's example (V-FBU 17). -/
theorem test_txseal :
    after (fun t => (t.txFrame, t.txlen, t.acc, t.responses)) (exec .txseal (loaded envelope false)) =
      some ([0x01, 0x0C, 0, 0, 0, 0x60, 0xAA, 0x55, 0x01, 0x00, 0x93, 0x6C], 12, 0x93, [0x00936C]) := by
  decide

/-- V-FBU 26. -/
theorem test_txseal_long : answers (exec .txseal { State.reset with txlen := 254 }) = some [0x120000] := by decide

/-- R106's example. -/
theorem test_txrd :
    answers (exec (.txrd 9) (loaded [0x01, 0x0A, 0, 0, 0, 0, 0xF4, 0xFF, 0x00, 0xFF] true)) = some [0x0000FF] := by
  decide

/-- R122's example. -/
theorem test_recv :
    after id (exec .recv { State.reset with rxlen := 11, rxvalid := true }) =
      some { State.reset with rxstate := .hdr, requests := [2] } := by
  decide

/-- R123's example. -/
theorem test_header_reply :
    after (fun t => (t.rxstate, t.requests, t.responses)) (externalStep (.reply [0x01, 0x0B]) (waiting .hdr [])) =
      some (.body, [2, 9], []) := by
  decide

/-- R125's example (V-RPU 1). -/
theorem test_body_reply :
    after (fun t => (t.rxFrame, t.rxvalid, t.acc, t.responses))
        (externalStep (.reply [0, 0, 0, 0, 0, 0x01, 0x10, 0x1B, 0xE4]) (waiting .body [0x01, 0x0B])) =
      some (isoError, true, 0x1B, [0x00000B]) := by
  decide

/-- V-RPU 8. -/
theorem test_body_reply_mismatch :
    after (fun t => (t.rxlen, t.rxvalid, t.acc, t.responses))
        (externalStep (.reply [0, 0, 0, 0, 0, 0x01, 0x10, 0x1A, 0xE4]) (waiting .body [0x01, 0x0B])) =
      some (0, false, 0x1B, [0x020000]) := by
  decide

/-- R129's example. -/
theorem test_rxrd :
    answers (exec (.rxrd 8) (holding isoError)) = some [0x000010] ∧
      answers (exec (.rxrd 11) (holding isoError)) = some [0x110000] := by
  decide

/-- V-EDU 1. -/
theorem test_classify :
    after (fun t => (t.ecode, t.emean, t.eshort, t.evalid, t.responses)) (exec .classify (holding isoError)) =
      some (0x10, 4, false, true, [0x000410]) := by
  decide

/-- V-EDU 2. -/
theorem test_classify_short : answers (exec .classify (holding shortError)) = some [0x008612] := by decide

/-- V-EDU, the table of EMLOOK. -/
theorem test_emlook :
    answers (exec (.emlook 0x12) State.reset) = some [0x000612] ∧
      answers (exec (.emlook 0x01) State.reset) = some [0x000F01] := by
  decide

/-! The step. -/

/-- The presented word is run by the next step (V-SYS 1). -/
theorem test_withFetchWord : answers (step (State.reset.withFetchWord 24 0x010000)) = some [0x000000] := by decide

/-- V-SYS 9. -/
theorem test_illegal_word : answers (step (State.reset.withFetchWord 24 0x030000)) = some [0x100000] := by decide

theorem test_reset_memory : Memory.wf State.reset.txb = true ∧ Memory.wf State.reset.rxb = true := by decide

/-! For each statement with hypotheses, inputs that meet them, clause by clause. -/

/-- A block with `inputs` waiting. -/
def presented (s : State) (inputs : List Input) : State := { s with inputs := inputs }

/-- Unused operand fields that are not zero: the hypothesis of the statements on operations with such fields. -/
theorem witness_unused_operands : ((1 : Byte) ≠ 0 ∨ (0 : Byte) ≠ 0) ∧ ((0 : Byte) ≠ 0 ∨ (1 : Byte) ≠ 0) := by decide

theorem witness_DecodeInvertsEncode : Instr.wellFormed (.strd 3) = true ∧ Instr.wellFormed .recv = true := by decide

theorem witness_EncodeInvertsDecode : decode 0x22FFFF = .ok (.txpoke 0xFF 0xFF) := by decide

theorem witness_DecoderAgreesWithOpcodeMap :
    decode 0x010300 = .ok (.strd 3) ∧ (⟨"STRD", 0x010000, 0xFFFCFF⟩ : OpcodeRow) ∈ opcodeTable ∧
      (⟨"SRST", 0x020000, 0xFFFFFF⟩ : OpcodeRow) ∈ opcodeTable := by
  decide

theorem witness_UnmatchedWordIsIllegalOp :
    (0x42 : Byte).toNat ∉ [0x01, 0x02, 0x10, 0x11, 0x12, 0x20, 0x21, 0x22, 0x23, 0x24, 0x25, 0x30, 0x31, 0x40, 0x41] ∧
      (0x02 : Byte).toNat ∈ [0x02, 0x10, 0x12, 0x20, 0x23, 0x24, 0x30, 0x40] ∧
      (0x41 : Byte).toNat ∈ [0x01, 0x11, 0x21, 0x25, 0x31, 0x41] ∧ 3 < (4 : Byte).toNat ∧
      decode 0x010400 = .error .noSuchStatusRegister := by
  decide

theorem witness_StepRunsDecodedOperation :
    (presented State.reset [.command 0x100000]).rxstate = .idle ∧
      (presented State.reset [.command 0x100000]).inputs = .command 0x100000 :: [] ∧
      decode 0x100000 = .ok .ckclr ∧ State.reset.rxstate = .idle ∧ State.reset.inputs = [] ∧
      (presented State.reset [.external .hardReset]).rxstate = .idle ∧
      (presented State.reset [.external .hardReset]).inputs = .external .hardReset :: [] ∧
      (presented State.reset [.external (.reply [0x01])]).inputs = .external (.reply [0x01]) :: [] := by
  decide

theorem witness_rejected : Rejected 0x000000 := ⟨⟨.unassignedOpcode, by decide⟩, fun _ => rfl⟩

/-- A command that waits while the reply behind it is taken, and one that waits for nothing. -/
theorem witness_HeldChannelTakesNoCommand :
    (presented (waiting .hdr []) [.command 0x100000, .external .hardReset]).rxstate ≠ .idle ∧
      (presented (waiting .hdr []) [.command 0x100000, .external .hardReset]).inputs =
        [0x100000].map Input.command ++ .external .hardReset :: [] ∧
      (presented (waiting .body [0x01, 0x04]) [.command 0x100000]).rxstate ≠ .idle ∧
      (presented (waiting .body [0x01, 0x04]) [.command 0x100000]).inputs = [0x100000].map Input.command := by
  decide

theorem witness_HardResetAbandonsReceive :
    (waiting .hdr []).rxstate ≠ .idle ∧ (waiting .body [0x01, 0x04]).rxstate ≠ .idle ∧
      State.reset.rxstate = .idle ∧
      after (fun t => t.rxstate) (externalStep (.reply []) (waiting .hdr [])) = some .idle := by
  decide

/-- One byte too many, for either request, and for a body request of no bytes. -/
theorem witness_OverlongReplyIsRefused :
    (waiting .hdr []).outstanding = some 2 ∧ 2 < [0x01, 0x0B, (0x00 : Byte)].length ∧
      (waiting .body [0x00, 0x02]).outstanding = some 0 ∧ 0 < [(0x00 : Byte)].length ∧
      (waiting .body [0x00, 0x02]).rxstate = .body ∧ 2 ≤ (Memory.read (waiting .body [0x00, 0x02]).rxb 1).toNat := by
  decide

theorem witness_CkupdFoldsOneByte : [0x02, 0x01, (0x02 : Byte)].Perm [0x01, 0x02, 0x02] := by decide

/-- A change of one byte and of two bytes by one difference, at the ends of a sequence. -/
theorem witness_FoldAndPairLaws :
    0 < [(0x01 : Byte), 0x02].length ∧ (0x03 : Byte) ≠ [(0x01 : Byte), 0x02].getD 0 0 ∧
      1 < [(0x01 : Byte), 0x02].length ∧ (0 : Nat) ≠ 1 ∧ [(0x01 : Byte), 0x02].Perm [0x02, 0x01] := by
  decide

theorem witness_AccumulatorWriters :
    after (fun t => t.acc) (exec .txstamp (loaded [0x55, 0x00, 0x00] false)) = some 0x55 ∧
      (loaded [0x55, 0x00, 0x00] false).acc ≠ 0x55 ∧
      after (fun t => t.acc) (externalStep (.reply []) (waiting .body [0x00, 0x02])) = some 0x00 ∧
      (waiting .body [0x00, 0x02]).acc ≠ 0x00 := by
  decide

/-- A full buffer, one with one free byte, an empty one. -/
theorem witness_TxpushAppendsOneByte :
    ({ State.reset with txlen := 255 } : State).txlen.toNat = 255 ∧
      ({ State.reset with txlen := 254 } : State).txlen.toNat < 255 ∧ State.reset.txlen.toNat < 255 ∧
      Memory.wf State.reset.txb = true := by
  decide

theorem witness_TxpokeWritesLoadedByte :
    (loaded [0x01, 0x02] false).txlen.toNat ≤ (2 : Byte).toNat ∧
      (1 : Byte).toNat < (loaded [0x01, 0x02] false).txlen.toNat ∧
      Memory.wf (loaded [0x01, 0x02] false).txb = true := by
  decide

theorem witness_TxstampWritesPair :
    (loaded [0x01] false).txlen.toNat < 2 ∧ (loaded [0x01, 0x02] false).txlen.toNat = 0 + 2 ∧
      Memory.wf (loaded [0x01, 0x02] false).txb = true ∧
      ({ State.reset with txlen := 255 } : State).txlen.toNat = 253 + 2 := by
  decide

/-- A stamped frame with the right length byte, and one with a wrong length byte. -/
theorem witness_StampedHeaderIsHostsDuty :
    Memory.wf (loaded [0x01, 0x04, 0, 0] false).txb = true ∧ 4 ≤ (loaded [0x01, 0x04, 0, 0] false).txlen.toNat ∧
      after (fun t => t.txFrame) (exec .txstamp (loaded [0x01, 0x04, 0, 0] false)) = some [0x01, 0x04, 0x05, 0xFA] ∧
      after (fun t => t.txFrame) (exec .txstamp (loaded [0x01, 0x05, 0, 0] false)) = some [0x01, 0x05, 0x04, 0xFB] := by
  decide

theorem witness_TxsealInjectsLengthAndAppendsPair :
    (loaded [0x01] false).txlen.toNat < 2 ∧ 253 < ({ State.reset with txlen := 254 } : State).txlen.toNat ∧
      (loaded [0x01, 0x00] false).txlen.toNat = 2 ∧ Memory.wf (loaded [0x01, 0x00] false).txb = true ∧
      ({ State.reset with txlen := 253 } : State).txlen.toNat = 253 := by
  decide

theorem witness_TxrdReadsLoadedByte :
    (loaded [0x01] false).txlen.toNat ≤ (1 : Byte).toNat ∧ (0 : Byte).toNat < (loaded [0x01] false).txlen.toNat := by
  decide

theorem witness_TransmitStateWriters :
    after (fun t => (t.txlen, t.txvalid)) (exec (.txpush 0x07) State.reset) = some (1, false) ∧
      State.reset.txlen ≠ 1 ∧
      after (fun t => t.txvalid) (exec .txstamp (loaded [0x01, 0x02] false)) = some true ∧
      (loaded [0x01, 0x02] false).txvalid = false ∧
      after (fun t => t.txlen) (externalStep (.reply []) (waiting .hdr [])) = some 0 := by
  decide

/-- Replies of no byte and one byte; length bytes 1 and 2. -/
theorem witness_HeaderReplyStep :
    (waiting .hdr []).rxstate = .hdr ∧ ([] : List Byte).length < 2 ∧ [(0x01 : Byte)].length < 2 ∧
      Memory.wf (waiting .hdr []).rxb = true ∧ (0x01 : Byte).toNat < 2 ∧ 2 ≤ (0x02 : Byte).toNat := by
  decide

/-- Length bytes 2, 3 and 255, with a full reply and, where there is one, a short one; a frame that agrees and
one that does not. -/
theorem witness_BodyReplyStep :
    (waiting .body [0x00, 0x02]).rxstate = .body ∧
      (Memory.read (waiting .body [0x00, 0x02]).rxb 1).toNat = 0 + 2 ∧ ([] : List Byte).length = 0 ∧
      Memory.wf (waiting .body [0x00, 0x02]).rxb = true ∧
      fold ([(0x00 : Byte), 0x02].take 0) = [(0x00 : Byte), 0x02].getD 0 0 ∧
      (Memory.read (waiting .body [0x01, 0x03]).rxb 1).toNat = 1 + 2 ∧ ([] : List Byte).length < 1 ∧
      [(0x77 : Byte)].length = 1 ∧ fold ([(0x01 : Byte), 0x03, 0x77].take 1) ≠ [(0x01 : Byte), 0x03, 0x77].getD 1 0 ∧
      (Memory.read (waiting .body [0x01, 0xFF]).rxb 1).toNat = 253 + 2 := by
  decide

/-- A receive with its two replies, as one state. -/
def receiving (r1 r2 : List Byte) : State :=
  presented State.reset [.command 0x300000, .external (.reply r1), .external (.reply r2)]

/-- A frame, and each of the faults. -/
theorem witness_ReceiveStepsComposeToReadResponse :
    (receiving [0x01, 0x04] [0x05, 0xFA]).rxstate = .idle ∧
      Memory.wf (receiving [0x01, 0x04] [0x05, 0xFA]).rxb = true ∧ [(0x01 : Byte), 0x04].length ≤ 2 ∧
      [(0x05 : Byte), 0xFA].length ≤ (0x04 : Byte).toNat - 2 ∧
      readResponse [0x01, 0x04] [0x05, 0xFA] = .ok [0x01, 0x04, 0x05, 0xFA] ∧
      readResponse [0x00, 0x02] [] = .ok [0x00, 0x02] ∧ readResponse [0x01] [] = .error .noReply ∧
      readResponse [0x01, 0x01] [] = .error .badLength ∧ readResponse [0x01, 0x04] [0x05] = .error .noReply ∧
      readResponse [0x01, 0x04] [0x04, 0xFA] = .error .checksumMismatch := by
  decide

/-- The frames of V-RPU 11, 13 and 15; a corrupted first byte; one difference in bytes 0 and 2. -/
theorem witness_WhatVerificationDetects :
    Accepted [0x00, 0x02] ∧ Accepted [0x03, 0x03, 0x77] ∧ Accepted [0x01, 0x04, 0x05, 0xFA] ∧
      ([(0x01 : Byte), 0x04, 0x05, 0xFA].getD 1 0).toNat = [(0x01 : Byte), 0x04, 0x05, 0xFA].length ∧
      0 + 2 ≤ [(0x01 : Byte), 0x04, 0x05, 0xFA].length ∧ (0x02 : Byte) ≠ [(0x01 : Byte), 0x04, 0x05, 0xFA].getD 0 0 ∧
      2 + 2 ≤ [(0x01 : Byte), 0x04, 0x05, 0xFA].length ∧ (0 : Nat) ≠ 1 ∧ (2 : Nat) ≠ 1 ∧ (0 : Nat) ≠ 2 := by
  refine ⟨?_, ?_, ?_, ?_⟩
  · show readResponse _ _ = _; decide
  · show readResponse _ _ = _; decide
  · show readResponse _ _ = _; decide
  · decide

theorem witness_FirstAndLastBytesUnchecked :
    Accepted [0x03, 0x03, 0x77] ∧ 3 ≤ [(0x03 : Byte), 0x03, 0x77].length ∧ ([] : List Byte).length ≤ 251 ∧
      (List.replicate 251 (0x00 : Byte)).length ≤ 251 := by
  refine ⟨?_, by decide, by decide, Nat.le_of_eq List.length_replicate⟩
  show readResponse _ _ = _
  decide

/-- The stream of V-RPU 18. -/
theorem witness_ReceiveConsumesOneFrame :
    (transportRead [0x01, 0x04, 0x05, 0xFA, 0x01, 0x04, 0x05, 0xFA] 2 2).1 = [0x01, 0x04] ∧
      readResponse (transportRead [0x01, 0x04, 0x05, 0xFA, 0x01, 0x04, 0x05, 0xFA] 2 2).1
          (transportRead (transportRead [0x01, 0x04, 0x05, 0xFA, 0x01, 0x04, 0x05, 0xFA] 2 2).2
            ((0x04 : Byte).toNat - 2) 2).1 =
        .ok [0x01, 0x04, 0x05, 0xFA] := by
  decide

theorem witness_RxrdReadsValidatedByte :
    State.reset.rxvalid = false ∧ (holding isoError).rxvalid = true ∧
      (holding isoError).rxlen.toNat ≤ (11 : Byte).toNat ∧ (10 : Byte).toNat < (holding isoError).rxlen.toNat := by
  decide

theorem witness_ReceiveStateWriters :
    after (fun t => t.rxvalid) (exec .recv (holding isoError)) = some false ∧ (holding isoError).rxvalid = true ∧
      after (fun t => t.evalid) (exec .classify (holding isoError)) = some true ∧
      (holding isoError).evalid = false := by
  decide

theorem witness_MeaningTable :
    (0x01 : Byte).toNat ∉ [0x00, 0x02, 0x03, 0x0F, 0x10, 0x11, 0x12, 0x13, 0x14, 0x15] ∧
      (0x04 : Byte).toNat ∉ [0x00, 0x02, 0x03, 0x0F, 0x10, 0x11, 0x12, 0x13, 0x14, 0x15] ∧
      (0xFF : Byte).toNat ∉ [0x00, 0x02, 0x03, 0x0F, 0x10, 0x11, 0x12, 0x13, 0x14, 0x15] := by
  decide

/-- No frame, and a frame of each of the three cases. -/
theorem witness_ClassifyLatchesResult :
    State.reset.rxvalid = false ∧ (holding isoError).rxvalid = true ∧ (holding isoError).rxlen = 11 ∧
      Memory.read (holding isoError).rxb 7 = 0x01 ∧ (holding shortError).rxlen = 10 ∧
      Memory.read (holding shortError).rxb 5 = 0x01 ∧ (holding [0x01, 0x04, 0x05, 0xFA]).rxlen = 4 := by
  decide

theorem witness_ClassifyIsFunctionOfFrame : (holding shortError).rxvalid = true := by decide


theorem witness_AnswersAfterReset :
    (∃ t, externalStep .hardReset (waiting .body isoError) = .next t) ∧
      (∃ t, exec .srst (holding isoError) = .next t) ∧ (3 : Byte).toNat < 4 :=
  ⟨⟨_, rfl⟩, ⟨_, rfl⟩, by decide⟩

theorem witness_EveryOperationAnswersOnce : Instr.recv = .recv ∧ Instr.ckrd ≠ .recv := by decide

theorem witness_ReadsChangeNothing : ∃ a, Instr.txrd a = .txrd 0xFF := ⟨0xFF, rfl⟩

theorem witness_FaultsArePrecise :
    answers (exec (.txrd 0) State.reset) = some (State.reset.responses ++ [0x110000]) ∧
      (0x110000 : ResponseWord).extractLsb' 16 8 ≠ StatusCode.ok.code ∧
      answers (externalStep (.reply []) (waiting .hdr [])) = some ((waiting .hdr []).responses ++ [0x010000]) ∧
      (0x010000 : ResponseWord).extractLsb' 16 8 ≠ StatusCode.ok.code := by
  decide

theorem witness_StepOutputsAreBounded :
    after (fun t => t.requests) (step (presented State.reset [.command 0x300000])) = some [2] := by
  decide

/-- A classified frame in RXB, a stamped one in TXB, and a command waiting. -/
def busy : State :=
  { holding isoError with
    txb := Memory.writeList [] 0 [0x01, 0x04, 0x05, 0xFA], txlen := 4, txvalid := true
    ecode := 0x10, emean := 4, evalid := true, inputs := [.command 0x300000] }

theorem witness_EveryStepKeepsInvariant :
    Inv busy ∧ after (fun t => (t.rxstate, t.rxvalid, t.evalid)) (step busy) = some (.hdr, false, false) :=
  ⟨⟨by decide, by decide, by decide, by decide, by decide, by decide, by decide, by decide, by decide, by decide⟩,
    by decide⟩

/-- A body request is outstanding, a command waits and the reply stands behind it. -/
def answered : State := presented (waiting .body [0x01, 0x04]) [.command 0x120000, .external (.reply [0x05, 0xFA])]

theorem witness_inv_answered : Inv answered :=
  ⟨by decide, by decide, by decide, by decide, by decide, by decide, by decide, by decide, by decide, by decide⟩

theorem witness_StrdReadsStatusRegisters :
    3 < (4 : Byte).toNat ∧ 3 < (255 : Byte).toNat ∧ Inv answered ∧ answered.evalid = false :=
  ⟨by decide, by decide, witness_inv_answered, by decide⟩

theorem witness_BlockNeverStops : Inv answered ∧ TransportKeepsContract answered := by
  refine ⟨witness_inv_answered, ?_⟩
  intro n hn
  have h2 : n = 2 := by
    have : answered.outstanding = some 2 := by decide
    rw [this] at hn
    exact (Option.some.inj hn).symm
  refine ⟨.reply [0x05, 0xFA], [.command 0x120000], by decide, ?_⟩
  intro r hr
  cases hr
  rw [h2]
  decide

/-- Two blocks whose buffers differ behind the loaded bytes only. -/
theorem witness_UnloadedBytesAreUnobservable :
    SameButUnloaded { loaded [0x01, 0x02] false with rxb := [(0, 0x55)] }
      { loaded [0x01, 0x02] false with txb := [(0, 0x01), (1, 0x02), (2, 0x77)] } :=
  ⟨rfl, by decide, by decide, by decide, by decide, by decide⟩

/-- The frame of V-RPU 15, built and delivered back. -/
def returned : State :=
  presented (loaded [0x01, 0x04, 0x05, 0xFA] true)
    [.command 0x300000, .external (.reply [0x01, 0x04]), .external (.reply [0x05, 0xFA])]

theorem witness_BuiltFrameIsReceived :
    Inv returned ∧ returned.rxstate = .idle ∧ returned.txvalid = true ∧ Memory.read returned.txb 1 = returned.txlen ∧
      returned.inputs =
        .command 0x300000 :: .external (.reply (returned.txFrame.take 2)) ::
          .external (.reply (returned.txFrame.drop 2)) :: [] :=
  ⟨⟨by decide, by decide, by decide, by decide, by decide, by decide, by decide, by decide, by decide, by decide⟩,
    by decide, by decide, by decide, by decide⟩

/-- The carrier-on frame (P1). -/
theorem witness_BuildFixedSequenceBuildsFrame :
    Memory.wf State.reset.txb = true ∧
      buildFixed (carrier 0) [(7, 0xFF)] = some [0x01, 0x0A, 0, 0, 0, 0, 0xF4, 0xFF, 0x00, 0xFF] ∧
      buildFixed [0x11, 0x22] [] = some [0x00, 0xFF] := by
  decide

/-- The transponder-details envelope (P2), and the shortest body. -/
theorem witness_BuildEnvelopeSequenceBuildsFrame :
    Memory.wf State.reset.txb = true ∧
      buildEnvelope (isoHeader 0xAA 0x55 0x01) [0x00] =
        some [0x01, 0x0C, 0, 0, 0, 0x60, 0xAA, 0x55, 0x01, 0x00, 0x93, 0x6C] ∧
      buildEnvelope [0x01] [0x00] = some [0x01, 0x04, 0x05, 0xFA] := by
  decide

theorem witness_EnvelopeIsCommandFrame :
    (isoHeader 0xAA 0x55 0x01).head? = some Config.sof ∧ (buildEnvelope (isoHeader 0xAA 0x55 0x01) [0x00]).isSome := by
  decide

end Sys2Proof.Tests
end

section
/-! The outputs of one operation and of one step (R12, R16, R71, R120, R121). -/

namespace Sys2Proof.Machine

/-- From `s` to `t` one response word is delivered; no request is emitted and no input taken. -/
structure AnswersOnce (s t : State) : Prop where
  inputs : t.inputs = s.inputs
  responses : ∃ w, t.responses = s.responses ++ [w]
  requests : t.requests = s.requests

theorem SameChannels.answersOnce {s u : State} (h : SameChannels s u) (w : ResponseWord) :
    AnswersOnce s (u.addResponse w) :=
  ⟨h.inputs, ⟨w, by rw [addResponse_responses, h.responses]⟩, h.requests⟩

/-- Every operation but RECV completes with one response word, OK or fault (R71, R120). -/
theorem exec_answersOnce {i : Instr} (hi : i ≠ .recv) (s : State) :
    ∃ t, exec i s = .next t ∧ AnswersOnce s t := by
  rcases exec_cases i s with ⟨hrecv, _⟩ | ⟨d1, d0, u, hok, hu⟩ | ⟨c, _, hfault⟩
  · exact absurd hrecv hi
  · exact ⟨_, hok, hu.answersOnce _⟩
  · exact ⟨_, hfault, SameChannels.answersOnce ⟨rfl, rfl, rfl⟩ _⟩

/-- Settles O40: RECV by its issue step, every other operation by `exec_answersOnce`. -/
theorem everyOperationAnswersOnce : Obligations.EveryOperationAnswersOnce := by
  intro i s
  by_cases hi : i = .recv
  · subst hi
    exact ⟨_, rfl, rfl, fun _ => ⟨rfl, rfl⟩, fun h => absurd rfl h⟩
  · obtain ⟨t, ht, hinputs, hresponses, hrequests⟩ := exec_answersOnce hi s
    exact ⟨t, ht, hinputs, fun h => absurd h hi, fun _ => ⟨hresponses, hrequests⟩⟩

/-- From `s` to `t` at most one response word is delivered and at most one read request emitted, of at most
253 bytes. -/
def OutputsBounded (s t : State) : Prop :=
  (t.responses = s.responses ∨ ∃ w, t.responses = s.responses ++ [w]) ∧
    (t.requests = s.requests ∨ ∃ n, n ≤ 253 ∧ t.requests = s.requests ++ [n])

theorem OutputsBounded.of_silent {s t : State} (hresp : t.responses = s.responses)
    (hreq : t.requests = s.requests) : OutputsBounded s t :=
  ⟨.inl hresp, .inl hreq⟩

theorem OutputsBounded.of_answer {s t : State} (hresp : ∃ w, t.responses = s.responses ++ [w])
    (hreq : t.requests = s.requests) : OutputsBounded s t :=
  ⟨.inr hresp, .inl hreq⟩

theorem OutputsBounded.of_request {s t : State} {n : Nat} (hn : n ≤ 253) (hresp : t.responses = s.responses)
    (hreq : t.requests = s.requests ++ [n]) : OutputsBounded s t :=
  ⟨.inl hresp, .inr ⟨n, hn, hreq⟩⟩

theorem exec_outputsBounded {i : Instr} {s t : State} (h : exec i s = .next t) : OutputsBounded s t := by
  by_cases hi : i = .recv
  · subst hi
    cases h
    exact .of_request (n := Config.headerBytes) (by decide) rfl rfl
  · obtain ⟨t', ht', ha⟩ := exec_answersOnce hi s
    cases ht'.symm.trans h
    exact .of_answer ha.responses ha.requests

/-- The request of the header-reply step is the length byte less 2, and a byte is at most 255 (R123). -/
theorem headerReply_outputsBounded {r : List Byte} {s t : State} (h : headerReply r s = .next t) :
    OutputsBounded s t := by
  rcases headerReply_cases r s with ⟨_, he⟩ | ⟨sof, len, _, _, he⟩ | ⟨sof, len, _, _, he⟩ | ⟨_, he⟩
  · cases he.symm.trans h
    exact .of_answer ⟨_, rfl⟩ rfl
  · cases he.symm.trans h
    exact .of_answer ⟨_, rfl⟩ rfl
  · cases he.symm.trans h
    have hlen := len.isLt
    exact .of_request (n := len.toNat - 2) (by omega) rfl rfl
  · cases he.symm.trans h

theorem verifyFrame_outputsBounded {len : Byte} {s t : State} (h : verifyFrame len s = .next t) :
    OutputsBounded s t := by
  rcases verifyFrame_cases len s with ⟨_, he⟩ | ⟨_, he⟩
  · cases he.symm.trans h
    exact .of_answer ⟨_, rfl⟩ rfl
  · cases he.symm.trans h
    exact .of_answer ⟨_, rfl⟩ rfl

theorem bodyReply_outputsBounded {r : List Byte} {s t : State} (h : bodyReply r s = .next t) :
    OutputsBounded s t := by
  rcases bodyReply_cases r s with ⟨_, he⟩ | ⟨_, _, he⟩ | ⟨_, _, he⟩ | ⟨_, _, he⟩
  · cases he.symm.trans h
  · cases he.symm.trans h
  · cases he.symm.trans h
    exact .of_answer ⟨_, rfl⟩ rfl
  · exact verifyFrame_outputsBounded (s := { s with rxb := Memory.writeList s.rxb 2 r }) (he.symm.trans h)

theorem externalStep_outputsBounded {e : External} {s t : State} (h : externalStep e s = .next t) :
    OutputsBounded s t := by
  cases e with
  | hardReset =>
    cases h
    exact .of_silent rfl rfl
  | reply r =>
    cases hs : s.rxstate <;> simp only [externalStep, hs] at h
    case idle =>
      cases h
      exact .of_silent rfl rfl
    case hdr => exact headerReply_outputsBounded h
    case body => exact bodyReply_outputsBounded h

/-- Without an input to take, a step that completes changes nothing (log 4, log 5). -/
theorem noInput_eq_next {s t : State} (h : noInput s = .next t) : t = s := by
  cases hs : s.rxstate <;> simp only [noInput, hs] at h
  case idle =>
    cases h
    rfl
  case hdr => cases h
  case body => cases h

/-- Settles O43: taking the input touches neither output log, so the bound is that of the four kinds of step. -/
theorem stepOutputsAreBounded : Obligations.StepOutputsAreBounded := by
  intro s t h
  rcases step_cases s with ⟨_, he⟩ | ⟨e, rest, _, he⟩ | ⟨w, rest, i, _, _, _, he⟩ | ⟨w, rest, e, _, _, _, he⟩
  · cases noInput_eq_next (he.symm.trans h)
    exact OutputsBounded.of_silent rfl rfl
  · exact externalStep_outputsBounded (s := { s with inputs := rest }) (he.symm.trans h)
  · exact exec_outputsBounded (s := { s with inputs := rest }) (he.symm.trans h)
  · cases he.symm.trans h
    exact OutputsBounded.of_answer ⟨_, rfl⟩ rfl

end Sys2Proof.Machine
end

section
/-! What an operation and a reply step do to the registers and the buffers, said once: one constructor per
effect. The answer's word is left open; the statements about single operations give it. -/

namespace Sys2Proof.Machine

/-- From `s` the operation leaves the given state: no change but the answer (a read or a fault), or the
change its rule gives under the guard its rule gives. -/
inductive Effect (s : State) : Instr → State → Prop
  | answer (i w) : Effect s i (s.addResponse w)
  | srst (w) : Effect s .srst (s.resetRegisters.addResponse w)
  | ckclr (w) : Effect s .ckclr (State.addResponse { s with acc := 0x00 } w)
  | ckupd (a w) : Effect s (.ckupd a) (State.addResponse { s with acc := s.acc ^^^ a } w)
  | txclr (w) : Effect s .txclr (State.addResponse { s with txlen := 0, txvalid := false } w)
  | txpush (a w) (room : s.txlen.toNat < 255) : Effect s (.txpush a)
      (State.addResponse { s with
        txb := Memory.write s.txb s.txlen.toNat a, txlen := s.txlen + 1, txvalid := false } w)
  | txpoke (a b w) (loaded : a.toNat < s.txlen.toNat) : Effect s (.txpoke a b)
      (State.addResponse { s with txb := Memory.write s.txb a.toNat b, txvalid := false } w)
  | txstamp (chk w) (long : 2 ≤ s.txlen.toNat)
      (covered : chk = fold (Memory.slice s.txb 0 (s.txlen.toNat - 2))) : Effect s .txstamp
      (State.addResponse { s with
        txb := Memory.writePair s.txb (s.txlen.toNat - 2) chk, acc := chk, txvalid := true } w)
  | txseal (chk w) (long : 2 ≤ s.txlen.toNat) (room : s.txlen.toNat ≤ 253)
      (covered : chk = fold (Memory.slice (injectLength s) 0 s.txlen.toNat)) : Effect s .txseal
      (State.addResponse { s with
        txb := Memory.writePair (injectLength s) s.txlen.toNat chk, txlen := s.txlen + 2, acc := chk,
        txvalid := true } w)
  | recv : Effect s .recv (State.addRequest { s.discardFrame with rxstate := .hdr } Config.headerBytes)
  | classify (code short w) (held : s.rxvalid = true) (read : (code, short) = classifyRegisters s) :
      Effect s .classify
      (State.addResponse { s with
        ecode := code, emean := meaningIndex code, eshort := short, evalid := true } w)

/-- Every operation has its effect. -/
theorem exec_effect {i : Instr} {s t : State} (h : exec i s = .next t) : Effect s i t := by
  have effect_of {u} (hu : exec i s = .next u) (he : Effect s i u) : Effect s i t := by
    cases hu.symm.trans h
    exact he
  cases i with
  | strd a =>
    rcases execStrd_cases a s with ⟨_, _, he⟩ | he
    · exact effect_of he (.answer _ _)
    · exact effect_of he (.answer _ _)
  | srst => exact effect_of rfl (.srst _)
  | ckclr => exact effect_of rfl (.ckclr _)
  | ckupd a => exact effect_of rfl (.ckupd a _)
  | ckrd => exact effect_of rfl (.answer _ _)
  | txclr => exact effect_of rfl (.txclr _)
  | txpush a =>
    rcases execTxpush_cases a s with ⟨_, he⟩ | ⟨hroom, he⟩
    · exact effect_of he (.answer _ _)
    · exact effect_of he (.txpush a _ hroom)
  | txpoke a b =>
    rcases execTxpoke_cases a b s with ⟨_, he⟩ | ⟨hloaded, he⟩
    · exact effect_of he (.answer _ _)
    · exact effect_of he (.txpoke a b _ hloaded)
  | txstamp =>
    rcases execTxstamp_cases s with ⟨_, he⟩ | ⟨hlong, he⟩
    · exact effect_of he (.answer _ _)
    · exact effect_of he (.txstamp _ _ hlong rfl)
  | txseal =>
    rcases execTxseal_cases s with ⟨_, he⟩ | ⟨_, he⟩ | ⟨hlong, hroom, he⟩
    · exact effect_of he (.answer _ _)
    · exact effect_of he (.answer _ _)
    · exact effect_of he (.txseal _ _ hlong hroom rfl)
  | txrd a =>
    rcases execTxrd_cases a s with ⟨_, he⟩ | ⟨_, he⟩
    · exact effect_of he (.answer _ _)
    · exact effect_of he (.answer _ _)
  | recv => exact effect_of rfl .recv
  | rxrd a =>
    rcases execRxrd_cases a s with ⟨_, he⟩ | ⟨_, _, he⟩ | ⟨_, _, he⟩
    · exact effect_of he (.answer _ _)
    · exact effect_of he (.answer _ _)
    · exact effect_of he (.answer _ _)
  | classify =>
    rcases execClassify_cases s with ⟨_, he⟩ | ⟨hheld, he⟩
    · exact effect_of he (.answer _ _)
    · exact effect_of he (.classify _ _ _ hheld rfl)
  | emlook a => exact effect_of rfl (.answer _ _)

theorem outstanding_hdr {s : State} (hs : s.rxstate = .hdr) : s.outstanding = some 2 := by
  simp [State.outstanding, hs]

theorem outstanding_body {s : State} (hs : s.rxstate = .body) :
    s.outstanding = some ((Memory.read s.rxb 1).toNat - 2) := by
  simp [State.outstanding, hs]

theorem busy_of_outstanding {s : State} {n : Nat} (h : s.outstanding = some n) : s.rxstate ≠ .idle := by
  intro hs
  simp [State.outstanding, hs] at h

/-- From `s` the step on the reply `r` leaves the given state: the reply is dropped, ends the receive with a
fault, asks for the body or completes the frame (R123 to R125, R212). -/
inductive ReplyEffect (s : State) (r : List Byte) : State → Prop
  | ignored (idle : s.rxstate = .idle) : ReplyEffect s r s
  | noReply (n) (asked : s.outstanding = some n) (short : r.length < n) :
      ReplyEffect s r (State.addResponse { s with rxstate := .idle } (faultWord .noReply))
  | badLength (sof len) (hdr : s.rxstate = .hdr) (isHeader : r = [sof, len]) (short : len.toNat < 2) :
      ReplyEffect s r
        (State.addResponse { storeHeader sof len s with rxstate := .idle } (faultWord .badLength))
  | header (sof len) (hdr : s.rxstate = .hdr) (isHeader : r = [sof, len]) (long : 2 ≤ len.toNat) :
      ReplyEffect s r (State.addRequest { storeHeader sof len s with rxstate := .body } (len.toNat - 2))
  | mismatch (c len) (body : s.rxstate = .body) (isLen : len = Memory.read s.rxb 1) (long : 2 ≤ len.toNat)
      (full : r.length = len.toNat - 2)
      (covered : c = fold (Memory.slice (Memory.writeList s.rxb 2 r) 0 (len.toNat - 2)))
      (differs : c ≠ Memory.read (Memory.writeList s.rxb 2 r) (len.toNat - 2)) :
      ReplyEffect s r
        (State.addResponse { s with rxb := Memory.writeList s.rxb 2 r, acc := c, rxstate := .idle }
          (faultWord .checksumMismatch))
  | frame (c len) (body : s.rxstate = .body) (isLen : len = Memory.read s.rxb 1) (long : 2 ≤ len.toNat)
      (full : r.length = len.toNat - 2)
      (covered : c = fold (Memory.slice (Memory.writeList s.rxb 2 r) 0 (len.toNat - 2)))
      (verified : c = Memory.read (Memory.writeList s.rxb 2 r) (len.toNat - 2)) :
      ReplyEffect s r
        (State.addResponse { s with
          rxb := Memory.writeList s.rxb 2 r, acc := c, rxlen := len, rxvalid := true, rxstate := .idle }
            (okWord 0x00 len))

theorem headerReply_effect {r : List Byte} {s t : State} (hs : s.rxstate = .hdr)
    (h : headerReply r s = .next t) : ReplyEffect s r t := by
  rcases headerReply_cases r s with
    ⟨hshort, he⟩ | ⟨sof, len, hr, hshort, he⟩ | ⟨sof, len, hr, hlong, he⟩ | ⟨_, he⟩
  · cases he.symm.trans h
    exact .noReply 2 (outstanding_hdr hs) hshort
  · cases he.symm.trans h
    exact .badLength sof len hs hr hshort
  · cases he.symm.trans h
    exact .header sof len hs hr hlong
  · cases he.symm.trans h

theorem bodyReply_effect {r : List Byte} {s t : State} (hs : s.rxstate = .body)
    (h : bodyReply r s = .next t) : ReplyEffect s r t := by
  rcases bodyReply_cases r s with ⟨_, he⟩ | ⟨_, _, he⟩ | ⟨_, hshort, he⟩ | ⟨hlong, hfull, he⟩
  · cases he.symm.trans h
  · cases he.symm.trans h
  · cases he.symm.trans h
    exact .noReply _ (outstanding_body hs) hshort
  · rcases verifyFrame_cases (Memory.read s.rxb 1) { s with rxb := Memory.writeList s.rxb 2 r } with
      ⟨hverified, hv⟩ | ⟨hdiffers, hv⟩
    · cases (he.trans hv).symm.trans h
      exact .frame _ _ hs rfl hlong hfull rfl hverified
    · cases (he.trans hv).symm.trans h
      exact .mismatch _ _ hs rfl hlong hfull rfl hdiffers

/-- Every reply that does not stop the model has its effect. -/
theorem reply_effect {r : List Byte} {s t : State} (h : externalStep (.reply r) s = .next t) :
    ReplyEffect s r t := by
  cases hs : s.rxstate <;> simp only [externalStep, hs] at h
  case idle =>
    cases h
    exact .ignored hs
  case hdr => exact headerReply_effect hs h
  case body => exact bodyReply_effect hs h

end Sys2Proof.Machine
end

section
/-! Who writes which part of the state (R22 to R24, R26, R34, R222). -/

namespace Sys2Proof.Machine

/-- TXB, TXLEN and TXVALID are as they were. -/
structure SameTransmit (s t : State) : Prop where
  txb : t.txb = s.txb
  txlen : t.txlen = s.txlen
  txvalid : t.txvalid = s.txvalid

/-- RXB, RXLEN, RXVALID and RXSTATE are as they were. -/
structure SameReceive (s t : State) : Prop where
  rxb : t.rxb = s.rxb
  rxlen : t.rxlen = s.rxlen
  rxvalid : t.rxvalid = s.rxvalid
  rxstate : t.rxstate = s.rxstate

/-- ECODE, EMEAN, ESHORT and EVALID are as they were. -/
structure SameClassification (s t : State) : Prop where
  ecode : t.ecode = s.ecode
  emean : t.emean = s.emean
  eshort : t.eshort = s.eshort
  evalid : t.evalid = s.evalid

/-- Settles O15: by the effects; of the external events only a hard reset and a verification touch ACC. -/
theorem accumulatorWriters : Obligations.AccumulatorWriters := by
  constructor
  · intro i s t h hacc
    cases exec_effect h with
    | ckclr | ckupd | txstamp | txseal | srst => simp
    | answer | txclr | txpush | txpoke | recv | classify => exact absurd rfl hacc
  · intro e s t h hacc
    cases e with
    | hardReset => exact .inl rfl
    | reply r =>
      cases reply_effect h with
      | ignored | noReply | badLength | header => exact absurd rfl hacc
      | mismatch _ len hbody hlen _ hfull | frame _ len hbody hlen _ hfull =>
        exact .inr ⟨r, rfl, hbody, hlen ▸ hfull⟩

/-- The frame builder's operations and SRST aside, an operation leaves the transmit state alone. -/
theorem Effect.sameTransmit_or_writer {i : Instr} {s t : State} (h : Effect s i t) :
    SameTransmit s t ∨
      i = .txclr ∨ (∃ a, i = .txpush a) ∨ (∃ a b, i = .txpoke a b) ∨ i = .txstamp ∨ i = .txseal ∨
        i = .srst := by
  cases h with
  | txclr | txpush | txpoke | txstamp | txseal | srst => simp
  | answer | ckclr | ckupd | recv | classify => exact .inl ⟨rfl, rfl, rfl⟩

theorem ReplyEffect.sameTransmit {r : List Byte} {s t : State} (h : ReplyEffect s r t) : SameTransmit s t := by
  cases h <;> exact ⟨rfl, rfl, rfl⟩

/-- TXVALID rises by a stamp or a seal alone (R26). -/
theorem Effect.txvalid_rises {i : Instr} {s t : State} (h : Effect s i t) (hs : s.txvalid = false)
    (ht : t.txvalid = true) : i = .txstamp ∨ i = .txseal := by
  cases h with
  | txstamp => exact .inl rfl
  | txseal => exact .inr rfl
  | txclr | txpush | txpoke | srst => cases ht
  | answer | ckclr | ckupd | recv | classify => cases hs.symm.trans ht

/-- Settles O23: by the effects of operations and replies. -/
theorem transmitStateWriters : Obligations.TransmitStateWriters := by
  refine ⟨fun i s t h hne => ?_, fun i s t h => (exec_effect h).txvalid_rises, fun r s t h => ?_⟩
  · refine (exec_effect h).sameTransmit_or_writer.resolve_left fun ⟨htxb, htxlen, htxvalid⟩ => hne ?_
    rw [htxb, htxlen, htxvalid]
  · obtain ⟨htxb, htxlen, htxvalid⟩ := (reply_effect h).sameTransmit
    exact ⟨htxb, htxlen, htxvalid⟩

/-- RECV and SRST aside, an operation leaves the receive state alone. -/
theorem Effect.sameReceive_or_writer {i : Instr} {s t : State} (h : Effect s i t) :
    SameReceive s t ∨ i = .recv ∨ i = .srst := by
  cases h with
  | recv | srst => simp
  | answer | ckclr | ckupd | txclr | txpush | txpoke | txstamp | txseal | classify =>
    exact .inl ⟨rfl, rfl, rfl, rfl⟩

/-- CLASSIFY, RECV and SRST aside, an operation leaves the classification alone. -/
theorem Effect.sameClassification_or_writer {i : Instr} {s t : State} (h : Effect s i t) :
    SameClassification s t ∨ i = .classify ∨ i = .recv ∨ i = .srst := by
  cases h with
  | classify | recv | srst => simp
  | answer | ckclr | ckupd | txclr | txpush | txpoke | txstamp | txseal => exact .inl ⟨rfl, rfl, rfl, rfl⟩

/-- Settles O32: by the effects of operations. -/
theorem receiveStateWriters : Obligations.ReceiveStateWriters := by
  refine ⟨fun i s t h hne => ?_, fun i s t h hne => ?_⟩
  · refine (exec_effect h).sameReceive_or_writer.resolve_left fun ⟨hrxb, hrxlen, hrxvalid, hrxstate⟩ => hne ?_
    rw [hrxb, hrxlen, hrxvalid, hrxstate]
  · refine (exec_effect h).sameClassification_or_writer.resolve_left
      fun ⟨hecode, hemean, heshort, hevalid⟩ => hne ?_
    rw [hecode, hemean, heshort, hevalid]

end Sys2Proof.Machine
end

section
/-! The invariants of R37 at reset and at every step: one lemma per kind of change, over the effects. -/

namespace Sys2Proof.Machine

/-- The last two of the first `n` bytes are the checksum pair of those before them (R26, R37 (e)). -/
def EndsWithPair (m : Memory) (n : Nat) : Prop :=
  2 ≤ n ∧ Memory.read m (n - 2) = fold (Memory.slice m 0 (n - 2)) ∧
    Memory.read m (n - 1) = Memory.read m (n - 2) ^^^ 0xFF

/-- The pair of the first `n` bytes, written behind them, ends a frame of `n + 2` bytes. -/
theorem endsWithPair_writePair {m : Memory} {n : Nat} (hm : Memory.wf m = true) (hn : n + 1 < 255) :
    EndsWithPair (Memory.writePair m n (fold (Memory.slice m 0 n))) (n + 2) := by
  have hread := fun j => read_writePair m n j (fold (Memory.slice m 0 n)) hm hn
  have hchk : Memory.read (Memory.writePair m n (fold (Memory.slice m 0 n))) n = fold (Memory.slice m 0 n) := by
    rw [hread, if_neg (by omega), if_pos rfl]
  have hslice : Memory.slice (Memory.writePair m n (fold (Memory.slice m 0 n))) 0 n = Memory.slice m 0 n :=
    slice_congr fun i _ hi => by rw [hread, if_neg (by omega), if_neg (by omega)]
  refine ⟨by omega, ?_, ?_⟩
  · rw [Nat.add_sub_cancel, hchk, hslice]
  · rw [Nat.add_sub_cancel, hchk, show n + 2 - 1 = n + 1 by omega, hread, if_pos rfl]

/-- No frame is held, and the receive registers and the classification are clear (R37 (c), (f)). -/
structure NoFrameHeld (s : State) : Prop where
  rxvalid : s.rxvalid = false
  rxlen : s.rxlen = 0
  evalid : s.evalid = false
  cleared : s.ecode = 0x00 ∧ s.emean = 0x0 ∧ s.eshort = false

/-- During a receive no frame is held (R37 (g)). -/
theorem Inv.noFrameHeld {s : State} (h : Inv s) (busy : s.rxstate ≠ .idle) : NoFrameHeld s := by
  have hvalid := h.receiving busy
  obtain ⟨hlen, hevalid⟩ := h.noFrame hvalid
  exact ⟨hvalid, hlen, hevalid, h.noResult hevalid⟩

/-- Without a frame, what is left of the invariants is the buffers' form, the built frame and the request. -/
theorem NoFrameHeld.inv {t : State} (hno : NoFrameHeld t) (txForm : Memory.wf t.txb = true)
    (rxForm : Memory.wf t.rxb = true) (built : t.txvalid = true → EndsWithPair t.txb t.txlen.toNat)
    (bodyLength : t.rxstate = .body → 2 ≤ (Memory.read t.rxb 1).toNat)
    (request : t.rxstate ≠ .idle → t.requests.getLast? = t.outstanding) : Inv t where
  txForm := txForm
  rxForm := rxForm
  noFrame _ := ⟨hno.rxlen, hno.evalid⟩
  frame hvalid := nomatch hno.rxvalid.symm.trans hvalid
  built := built
  noResult _ := hno.cleared
  result hevalid := nomatch hno.evalid.symm.trans hevalid
  receiving _ := hno.rxvalid
  bodyLength := bodyLength
  request := request

theorem inv_resetRegisters {s : State} (txForm : Memory.wf s.txb = true) (rxForm : Memory.wf s.rxb = true) :
    Inv s.resetRegisters :=
  NoFrameHeld.inv ⟨rfl, rfl, rfl, rfl, rfl, rfl⟩ txForm rxForm nofun nofun (fun busy => absurd rfl busy)

/-- Settles O44: the reset state's registers are reset and its buffers list nothing. -/
theorem invariantHoldsAtReset : Obligations.InvariantHoldsAtReset :=
  inv_resetRegisters (s := State.reset) rfl rfl

/-- The invariants do not speak of the waiting inputs. -/
theorem Inv.setInputs {s : State} (h : Inv s) (inputs : List Input) : Inv { s with inputs } :=
  { h with }

theorem Inv.addResponse {s : State} (h : Inv s) (w : ResponseWord) : Inv (s.addResponse w) :=
  { h with }

theorem Inv.setAcc {s : State} (h : Inv s) (acc : Byte) : Inv { s with acc } :=
  { h with }

/-- The transmit state may change to any whose pair, if TXVALID is set, is right (R26). -/
theorem Inv.setTransmit {s : State} (h : Inv s) {m : Memory} {n : Byte} {v : Bool}
    (txForm : Memory.wf m = true) (built : v = true → EndsWithPair m n.toNat) :
    Inv { s with txb := m, txlen := n, txvalid := v } :=
  { h with txForm, built }

/-- With TXVALID clear any bytes may be loaded. -/
theorem Inv.setUnstamped {s : State} (h : Inv s) {m : Memory} (n : Byte) (txForm : Memory.wf m = true) :
    Inv { s with txb := m, txlen := n, txvalid := false } :=
  h.setTransmit txForm nofun

/-- The classification may change to that of the held frame (R34). -/
theorem Inv.setClassification {s : State} (h : Inv s) {code : Byte} {short : Bool}
    (read : (code, short) = classifyRegisters s) (held : s.rxvalid = true) :
    Inv { s with ecode := code, emean := meaningIndex code, eshort := short, evalid := true } :=
  { h with
    noFrame := fun hvalid => nomatch held.symm.trans hvalid
    noResult := nofun
    result := fun _ => ⟨read.trans (classify_rxFrame s).symm, rfl⟩ }

/-- The buffer stays in canonical form when the length goes to byte 1. -/
theorem wf_injectLength {s : State} (h : Memory.wf s.txb = true) : Memory.wf (injectLength s) = true :=
  wf_write _ h (by decide)

/-- Every operation keeps the invariants. -/
theorem Effect.inv {i : Instr} {s t : State} (he : Effect s i t) (h : Inv s) : Inv t := by
  cases he with
  | answer _ w => exact h.addResponse w
  | srst w => exact (inv_resetRegisters h.txForm h.rxForm).addResponse w
  | ckclr w => exact (h.setAcc _).addResponse w
  | ckupd _ w => exact (h.setAcc _).addResponse w
  | txclr w => exact (h.setUnstamped 0 h.txForm).addResponse w
  | txpush a w room => exact (h.setUnstamped _ (wf_write a h.txForm room)).addResponse w
  | txpoke a b w loaded =>
    have ha : a.toNat < 255 := by omega
    exact (h.setUnstamped _ (wf_write b h.txForm ha)).addResponse w
  | txstamp chk w long covered =>
    have hn : s.txlen.toNat - 2 + 1 < 255 := by omega
    have hpair := endsWithPair_writePair h.txForm hn
    rw [← covered, Nat.sub_add_cancel long] at hpair
    exact ((h.setTransmit (wf_writePair chk h.txForm hn) fun _ => hpair).setAcc chk).addResponse w
  | txseal chk w long room covered =>
    have hn : s.txlen.toNat + 1 < 255 := by omega
    have hlen : (s.txlen + 2).toNat = s.txlen.toNat + 2 := by bv_omega
    have hpair := endsWithPair_writePair (wf_injectLength h.txForm) hn
    rw [← covered, ← hlen] at hpair
    have hform := wf_writePair chk (wf_injectLength h.txForm) hn
    exact ((h.setTransmit hform fun _ => hpair).setAcc chk).addResponse w
  | recv =>
    exact NoFrameHeld.inv ⟨rfl, rfl, rfl, rfl, rfl, rfl⟩ h.txForm h.rxForm h.built nofun
      fun _ => List.getLast?_concat
  | classify code short w held read => exact (h.setClassification read held).addResponse w

/-- A receive ends without a frame, whatever the reply left in RXB (R120, log 12). -/
theorem Inv.endReceive {s : State} (h : Inv s) (busy : s.rxstate ≠ .idle) {m : Memory}
    (rxForm : Memory.wf m = true) : Inv { s with rxb := m, rxstate := .idle } :=
  have hno := h.noFrameHeld busy
  NoFrameHeld.inv ⟨hno.rxvalid, hno.rxlen, hno.evalid, hno.cleared⟩ h.txForm rxForm h.built nofun
    fun hidle => absurd rfl hidle

/-- A receive ends with a verified frame in RXB (R125, R37 (d)). -/
theorem Inv.holdFrame {s : State} (h : Inv s) (busy : s.rxstate ≠ .idle) {m : Memory} {len : Byte}
    (rxForm : Memory.wf m = true) (long : 2 ≤ len.toNat) (hlen : Memory.read m 1 = len)
    (verified : fold (Memory.slice m 0 (len.toNat - 2)) = Memory.read m (len.toNat - 2)) :
    Inv { s with rxb := m, rxlen := len, rxvalid := true, rxstate := .idle } :=
  { h with
    rxForm
    noFrame := nofun
    frame := fun _ => ⟨long, hlen, verified⟩
    result := fun hevalid => nomatch (h.noFrameHeld busy).evalid.symm.trans hevalid
    receiving := fun hidle => absurd rfl hidle
    bodyLength := nofun
    request := fun hidle => absurd rfl hidle }

/-- The header bytes leave RXB in canonical form. -/
theorem wf_storeHeader {s : State} (sof len : Byte) (h : Memory.wf s.rxb = true) :
    Memory.wf (storeHeader sof len s).rxb = true :=
  wf_write _ (wf_write _ h (by decide)) (by decide)

theorem read_storeHeader_one {s : State} (sof len : Byte) (h : Memory.wf s.rxb = true) :
    Memory.read (storeHeader sof len s).rxb 1 = len :=
  (read_write 1 1 len (wf_write sof h (by decide))).trans (if_pos rfl)

/-- A body of `length byte - 2` bytes ends inside the buffer. -/
theorem body_fits {r : List Byte} {len : Byte} (full : r.length = len.toNat - 2) :
    2 + r.length ≤ Config.bufDepth := by
  have := len.isLt
  simp only [Config.bufDepth]
  omega

/-- Every reply that does not stop the model keeps the invariants. -/
theorem ReplyEffect.inv {r : List Byte} {s t : State} (he : ReplyEffect s r t) (h : Inv s) : Inv t := by
  cases he with
  | ignored => exact h
  | noReply n asked => exact (h.endReceive (busy_of_outstanding asked) h.rxForm).addResponse _
  | badLength sof len hdr =>
    exact (h.endReceive (by simp [hdr]) (wf_storeHeader sof len h.rxForm)).addResponse _
  | header sof len hdr _ long =>
    have hno := h.noFrameHeld (by simp [hdr])
    have hlen := read_storeHeader_one sof len h.rxForm
    refine NoFrameHeld.inv ⟨hno.rxvalid, hno.rxlen, hno.evalid, hno.cleared⟩ h.txForm
      (wf_storeHeader sof len h.rxForm) h.built (fun _ => ?_) (fun _ => ?_)
    · rwa [addRequest_rxb, hlen]
    · rw [outstanding_body rfl, addRequest_rxb, hlen, addRequest_requests, List.getLast?_concat]
  | mismatch c len body _ _ full =>
    have hform := wf_writeList (vs := r) h.rxForm (body_fits full)
    exact ((h.endReceive (by simp [body]) hform).setAcc c).addResponse _
  | frame c len body isLen long full covered verified =>
    have hfits := body_fits full
    have hlen : Memory.read (Memory.writeList s.rxb 2 r) 1 = len := by
      rw [read_writeList 1 h.rxForm hfits, if_neg (by omega), isLen]
    have hframe := h.holdFrame (by simp [body]) (wf_writeList h.rxForm hfits) long hlen
      (covered.symm.trans verified)
    exact (hframe.setAcc c).addResponse _

theorem externalStep_inv {e : External} {s t : State} (h : Inv s) (ht : externalStep e s = .next t) : Inv t := by
  cases e with
  | hardReset =>
    cases ht
    exact inv_resetRegisters h.txForm h.rxForm
  | reply r => exact (reply_effect ht).inv h

/-- Settles O45: the invariants do not see the input taken, and each of the four kinds of step keeps them. -/
theorem everyStepKeepsInvariant : Obligations.EveryStepKeepsInvariant := by
  intro s t h ht
  rcases step_cases s with ⟨_, he⟩ | ⟨e, rest, _, he⟩ | ⟨w, rest, i, _, _, _, he⟩ | ⟨w, rest, e, _, _, _, he⟩
  · cases noInput_eq_next (he.symm.trans ht)
    exact h
  · exact externalStep_inv (h.setInputs rest) (he.symm.trans ht)
  · exact (exec_effect (he.symm.trans ht)).inv (h.setInputs rest)
  · cases he.symm.trans ht
    exact (h.setInputs rest).addResponse _

end Sys2Proof.Machine
end

section
/-! Two blocks that differ in unloaded buffer bytes alone step alike (R25, R29, log 8): the buffers agree below
a bound, and each rule reads below it. -/

namespace Sys2Proof.Machine

/-- Two buffers in canonical form that agree on their first `n` bytes. -/
structure AgreeBelow (n : Nat) (m m' : Memory) : Prop where
  formLeft : Memory.wf m = true
  formRight : Memory.wf m' = true
  read : ∀ i, i < n → Memory.read m i = Memory.read m' i

namespace AgreeBelow

variable {n : Nat} {m m' : Memory}

theorem mono {k : Nat} (h : AgreeBelow n m m') (hk : k ≤ n) : AgreeBelow k m m' :=
  ⟨h.formLeft, h.formRight, fun i hi => h.read i (by omega)⟩

theorem slice {k : Nat} (h : AgreeBelow n m m') (hk : k ≤ n) : Memory.slice m 0 k = Memory.slice m' 0 k :=
  slice_congr fun i _ hi => h.read i (by omega)

theorem write (h : AgreeBelow n m m') {a : Nat} (v : Byte) (ha : a < 255) :
    AgreeBelow n (Memory.write m a v) (Memory.write m' a v) :=
  ⟨wf_write v h.formLeft ha, wf_write v h.formRight ha, fun i hi => by
    rw [read_write a i v h.formLeft, read_write a i v h.formRight, h.read i hi]⟩

/-- One more byte written right behind the agreement extends it. -/
theorem push (h : AgreeBelow n m m') (v : Byte) (hn : n < 255) :
    AgreeBelow (n + 1) (Memory.write m n v) (Memory.write m' n v) :=
  ⟨wf_write v h.formLeft hn, wf_write v h.formRight hn, fun i hi => by
    rw [read_write n i v h.formLeft, read_write n i v h.formRight]
    by_cases hin : i = n
    · rw [if_pos hin, if_pos hin]
    · rw [if_neg hin, if_neg hin, h.read i (by omega)]⟩

theorem pushPair (h : AgreeBelow n m m') (chk : Byte) (hn : n + 1 < 255) :
    AgreeBelow (n + 2) (Memory.writePair m n chk) (Memory.writePair m' n chk) :=
  (h.push chk (by omega)).push (chk ^^^ 0xFF) hn

theorem pushList {r : List Byte} (h : AgreeBelow n m m') (hr : n + r.length ≤ 255) :
    AgreeBelow (n + r.length) (Memory.writeList m n r) (Memory.writeList m' n r) := by
  induction r generalizing n m m' with
  | nil => exact h
  | cons v r ih =>
    rw [List.length_cons] at hr ⊢
    rw [show n + (r.length + 1) = n + 1 + r.length by omega]
    exact ih (h.push v (by omega)) (by omega)

theorem writeList {r : List Byte} {a : Nat} (h : AgreeBelow n m m') (hr : a + r.length ≤ 255) :
    AgreeBelow n (Memory.writeList m a r) (Memory.writeList m' a r) := by
  induction r generalizing a m m' with
  | nil => exact h
  | cons v r ih =>
    rw [List.length_cons] at hr
    exact ih (h.write v (by omega)) (by omega)

end AgreeBelow

namespace SameButUnloaded

variable {s t : State}

/-! What the two blocks share. -/

theorem acc_eq (h : SameButUnloaded s t) : t.acc = s.acc := (congrArg State.acc h.registers :)
theorem txlen_eq (h : SameButUnloaded s t) : t.txlen = s.txlen := (congrArg State.txlen h.registers :)
theorem txvalid_eq (h : SameButUnloaded s t) : t.txvalid = s.txvalid := (congrArg State.txvalid h.registers :)
theorem rxlen_eq (h : SameButUnloaded s t) : t.rxlen = s.rxlen := (congrArg State.rxlen h.registers :)
theorem rxvalid_eq (h : SameButUnloaded s t) : t.rxvalid = s.rxvalid := (congrArg State.rxvalid h.registers :)
theorem rxstate_eq (h : SameButUnloaded s t) : t.rxstate = s.rxstate := (congrArg State.rxstate h.registers :)
theorem ecode_eq (h : SameButUnloaded s t) : t.ecode = s.ecode := (congrArg State.ecode h.registers :)
theorem emean_eq (h : SameButUnloaded s t) : t.emean = s.emean := (congrArg State.emean h.registers :)
theorem eshort_eq (h : SameButUnloaded s t) : t.eshort = s.eshort := (congrArg State.eshort h.registers :)
theorem evalid_eq (h : SameButUnloaded s t) : t.evalid = s.evalid := (congrArg State.evalid h.registers :)
theorem inputs_eq (h : SameButUnloaded s t) : t.inputs = s.inputs := (congrArg State.inputs h.registers :)

theorem txAgree (h : SameButUnloaded s t) : AgreeBelow s.txlen.toNat s.txb t.txb :=
  ⟨h.formLeft.1, h.formRight.1, h.loaded⟩

theorem rxForms (h : SameButUnloaded s t) : AgreeBelow 0 s.rxb t.rxb :=
  ⟨h.formLeft.2, h.formRight.2, nofun⟩

theorem rxAgree (h : SameButUnloaded s t) (held : s.rxvalid = true) : AgreeBelow s.rxlen.toNat s.rxb t.rxb :=
  ⟨h.formLeft.2, h.formRight.2, h.received held⟩

theorem headerAgree (h : SameButUnloaded s t) (hs : s.rxstate = .body) : AgreeBelow 2 s.rxb t.rxb :=
  ⟨h.formLeft.2, h.formRight.2, h.header hs⟩

/-! Changes both blocks make together keep them the same but for unloaded bytes. -/

theorem addResponse (h : SameButUnloaded s t) (w : ResponseWord) :
    SameButUnloaded (s.addResponse w) (t.addResponse w) :=
  { h with registers := congrArg (State.addResponse · w) h.registers }

theorem addRequest (h : SameButUnloaded s t) (n : Nat) :
    SameButUnloaded (s.addRequest n) (t.addRequest n) :=
  { h with registers := congrArg (State.addRequest · n) h.registers }

theorem setInputs (h : SameButUnloaded s t) (inputs : List Input) :
    SameButUnloaded { s with inputs } { t with inputs } :=
  { h with registers := congrArg (fun u : State => { u with inputs }) h.registers }

theorem setAcc (h : SameButUnloaded s t) (acc : Byte) :
    SameButUnloaded { s with acc } { t with acc } :=
  { h with registers := congrArg (fun u : State => { u with acc }) h.registers }

theorem setClassification (h : SameButUnloaded s t) (ecode : Byte) (emean : BitVec 4) (eshort evalid : Bool) :
    SameButUnloaded { s with ecode, emean, eshort, evalid } { t with ecode, emean, eshort, evalid } :=
  { h with registers := congrArg (fun u : State => { u with ecode, emean, eshort, evalid }) h.registers }

/-- The transmit state may change to ones whose buffers agree as far as they are loaded. -/
theorem setTransmit (h : SameButUnloaded s t) {m m' : Memory} {n n' : Byte} (txvalid : Bool) (hn : n' = n)
    (hm : AgreeBelow n.toNat m m') :
    SameButUnloaded { s with txb := m, txlen := n, txvalid } { t with txb := m', txlen := n', txvalid } where
  registers := hn ▸ congrArg (fun u : State => { u with txb := m', txlen := n', txvalid }) h.registers
  formLeft := ⟨hm.formLeft, h.formLeft.2⟩
  formRight := ⟨hm.formRight, h.formRight.2⟩
  loaded := hm.read
  received := h.received
  header := h.header

/-- Both blocks may come to hold a frame on whose bytes they agree. -/
theorem holdFrame (h : SameButUnloaded s t) {m m' : Memory} (rxlen : Byte) (hm : AgreeBelow rxlen.toNat m m') :
    SameButUnloaded { s with rxb := m, rxlen, rxvalid := true, rxstate := .idle }
      { t with rxb := m', rxlen, rxvalid := true, rxstate := .idle } where
  registers :=
    congrArg (fun u : State => { u with rxb := m', rxlen, rxvalid := true, rxstate := .idle }) h.registers
  formLeft := ⟨h.formLeft.1, hm.formLeft⟩
  formRight := ⟨h.formRight.1, hm.formRight⟩
  loaded := h.loaded
  received := fun _ => hm.read
  header := nofun

/-- The receive buffer and the stage may change to ones that agree as far as the frame held, if any, goes. -/
theorem setStage (h : SameButUnloaded s t) {m m' : Memory} (rxstate : RxState)
    (hm : ∀ n, AgreeBelow n s.rxb t.rxb → AgreeBelow n m m') (hheader : rxstate = .body → AgreeBelow 2 m m') :
    SameButUnloaded { s with rxb := m, rxstate } { t with rxb := m', rxstate } where
  registers := congrArg (fun u : State => { u with rxb := m', rxstate }) h.registers
  formLeft := ⟨h.formLeft.1, (hm 0 h.rxForms).formLeft⟩
  formRight := ⟨h.formRight.1, (hm 0 h.rxForms).formRight⟩
  loaded := h.loaded
  received := fun hv => (hm _ (h.rxAgree hv)).read
  header := fun hs => (hheader hs).read

theorem resetRegisters (h : SameButUnloaded s t) : SameButUnloaded s.resetRegisters t.resetRegisters where
  registers := congrArg State.resetRegisters h.registers
  formLeft := h.formLeft
  formRight := h.formRight
  loaded := nofun
  received := nofun
  header := nofun

theorem discardFrame (h : SameButUnloaded s t) : SameButUnloaded s.discardFrame t.discardFrame where
  registers := congrArg State.discardFrame h.registers
  formLeft := h.formLeft
  formRight := h.formRight
  loaded := h.loaded
  received := nofun
  header := h.header

end SameButUnloaded

/-- Both blocks stop alike, or go on to states that are the same but for unloaded bytes. -/
abbrev StepAlike (o o' : Host.Outcome State Fault Refusal) : Prop := OutcomesAgree SameButUnloaded o o'

namespace SameButUnloaded

variable {s t : State}

theorem respond_alike (h : SameButUnloaded s t) (d1 d0 : Byte) : StepAlike (respond d1 d0 s) (respond d1 d0 t) :=
  h.addResponse _

theorem raise_alike (h : SameButUnloaded s t) (c : StatusCode) : StepAlike (raise c s) (raise c t) :=
  h.addResponse _

theorem execStrd_alike (h : SameButUnloaded s t) (a : Byte) : StepAlike (execStrd a s) (execStrd a t) := by
  unfold execStrd
  rw [h.evalid_eq, h.rxvalid_eq, h.txvalid_eq, h.txlen_eq, h.rxlen_eq, h.eshort_eq, h.emean_eq, h.ecode_eq]
  split
  · exact h.respond_alike _ _
  · exact h.respond_alike _ _
  · exact h.respond_alike _ _
  · exact h.respond_alike _ _
  · exact h.raise_alike _

theorem execTxpush_alike (h : SameButUnloaded s t) (a : Byte) : StepAlike (execTxpush a s) (execTxpush a t) := by
  unfold execTxpush
  rw [h.txlen_eq]
  split
  · exact h.raise_alike _
  next hne =>
    have hroom : s.txlen.toNat < 255 := Nat.lt_of_le_of_ne (Nat.le_of_lt_succ s.txlen.isLt) hne
    have hlen : (s.txlen + 1).toNat = s.txlen.toNat + 1 := by bv_omega
    exact (h.setTransmit (n := s.txlen + 1) false rfl (hlen ▸ h.txAgree.push a hroom)).respond_alike _ _

theorem execTxpoke_alike (h : SameButUnloaded s t) (a b : Byte) :
    StepAlike (execTxpoke a b s) (execTxpoke a b t) := by
  unfold execTxpoke
  rw [h.txlen_eq]
  split
  next hlt =>
    have ha := (offsetBelow_iff a s.txlen).1 hlt
    exact (h.setTransmit false rfl (h.txAgree.write b (by omega))).respond_alike _ _
  · exact h.raise_alike _

theorem execTxstamp_alike (h : SameButUnloaded s t) : StepAlike (execTxstamp s) (execTxstamp t) := by
  unfold execTxstamp
  rw [h.txlen_eq, ← h.txAgree.slice (Nat.sub_le _ _)]
  split
  · exact h.raise_alike _
  next hlong =>
    have hlen : s.txlen.toNat - 2 + 2 = s.txlen.toNat := Nat.sub_add_cancel (Nat.le_of_not_lt hlong)
    have hpair := (h.txAgree.mono (Nat.sub_le _ 2)).pushPair
      (fold (Memory.slice s.txb 0 (s.txlen.toNat - 2))) (by omega)
    exact ((h.setTransmit true h.txlen_eq (hlen ▸ hpair)).setAcc _).respond_alike _ _

/-- The bytes under the sealed frame's pair agree once the length is in place. -/
theorem injectLength_agree (h : SameButUnloaded s t) :
    AgreeBelow s.txlen.toNat (injectLength s) (injectLength t) := by
  unfold injectLength
  rw [h.txlen_eq]
  exact h.txAgree.write _ (by decide)

theorem execTxseal_alike (h : SameButUnloaded s t) : StepAlike (execTxseal s) (execTxseal t) := by
  have hinject := h.injectLength_agree
  unfold execTxseal
  rw [h.txlen_eq, ← hinject.slice (Nat.le_refl _)]
  split
  · exact h.raise_alike _
  · split
    · exact h.raise_alike _
    next hroom =>
      have hroom : s.txlen.toNat ≤ 253 := Nat.le_of_not_lt hroom
      have hlen : (s.txlen + 2).toNat = s.txlen.toNat + 2 := by bv_omega
      have hpair := hinject.pushPair (fold (Memory.slice (injectLength s) 0 s.txlen.toNat)) (by omega)
      exact ((h.setTransmit (n := s.txlen + 2) true rfl (hlen ▸ hpair)).setAcc _).respond_alike _ _

theorem execTxrd_alike (h : SameButUnloaded s t) (a : Byte) : StepAlike (execTxrd a s) (execTxrd a t) := by
  unfold execTxrd
  rw [h.txlen_eq]
  split
  next hlt =>
    rw [h.loaded _ ((offsetBelow_iff _ _).1 hlt)]
    exact h.respond_alike _ _
  · exact h.raise_alike _

theorem execRxrd_alike (h : SameButUnloaded s t) (a : Byte) : StepAlike (execRxrd a s) (execRxrd a t) := by
  unfold execRxrd
  rw [h.rxvalid_eq, h.rxlen_eq]
  split
  next held =>
    split
    next hlt =>
      rw [h.received held _ ((offsetBelow_iff _ _).1 hlt)]
      exact h.respond_alike _ _
    · exact h.raise_alike _
  · exact h.raise_alike _

/-- CLASSIFY reads the held frame alone. -/
theorem classifyRegisters_eq (h : SameButUnloaded s t) (held : s.rxvalid = true) :
    classifyRegisters t = classifyRegisters s := by
  have hframe : t.rxFrame = s.rxFrame := by
    unfold State.rxFrame
    rw [h.rxlen_eq, (h.rxAgree held).slice (Nat.le_refl _)]
  rw [← classify_rxFrame, ← classify_rxFrame, hframe]

theorem execClassify_alike (h : SameButUnloaded s t) : StepAlike (execClassify s) (execClassify t) := by
  unfold execClassify
  rw [h.rxvalid_eq]
  split
  next held =>
    rw [h.classifyRegisters_eq held]
    exact (h.setClassification _ _ _ true).respond_alike _ _
  · exact h.raise_alike _

theorem execRecv_alike (h : SameButUnloaded s t) : StepAlike (execRecv s) (execRecv t) :=
  (h.discardFrame.setStage .hdr (fun _ hm => hm) nofun).addRequest _

/-- The fifteen operations. -/
theorem exec_alike (h : SameButUnloaded s t) (i : Instr) : StepAlike (exec i s) (exec i t) := by
  cases i with
  | strd a => exact h.execStrd_alike a
  | srst => exact h.resetRegisters.respond_alike _ _
  | ckclr => exact (h.setAcc 0x00).respond_alike _ _
  | ckupd a =>
    have := (h.setAcc (s.acc ^^^ a)).respond_alike 0x00 (s.acc ^^^ a)
    simp only [exec, execCkupd, h.acc_eq]
    exact this
  | ckrd => simpa only [exec, execCkrd, h.acc_eq] using h.respond_alike s.acc (s.acc ^^^ 0xFF)
  | txclr => exact (h.setTransmit (n := 0) false rfl (h.txAgree.mono (Nat.zero_le _))).respond_alike _ _
  | txpush a => exact h.execTxpush_alike a
  | txpoke a b => exact h.execTxpoke_alike a b
  | txstamp => exact h.execTxstamp_alike
  | txseal => exact h.execTxseal_alike
  | txrd a => exact h.execTxrd_alike a
  | recv => exact h.execRecv_alike
  | rxrd a => exact h.execRxrd_alike a
  | classify => exact h.execClassify_alike
  | emlook a => exact h.respond_alike _ _

theorem failReceive_alike (h : SameButUnloaded s t) (c : StatusCode) :
    StepAlike (failReceive c s) (failReceive c t) :=
  (h.setStage .idle (fun _ hm => hm) nofun).raise_alike c

theorem headerReply_alike (h : SameButUnloaded s t) (r : List Byte) :
    StepAlike (headerReply r s) (headerReply r t) := by
  rcases r with _ | ⟨sof, _ | ⟨len, _ | _⟩⟩
  · exact h.failReceive_alike _
  · exact h.failReceive_alike _
  · have hstore : ∀ n, AgreeBelow n s.rxb t.rxb →
        AgreeBelow n (storeHeader sof len s).rxb (storeHeader sof len t).rxb :=
      fun n hm => (hm.write sof (by decide)).write len (by decide)
    simp only [headerReply]
    split
    · exact (h.setStage .idle hstore nofun).raise_alike _
    · have hheader : AgreeBelow 2 (storeHeader sof len s).rxb (storeHeader sof len t).rxb :=
        (h.rxForms.push sof (by decide)).push len (by decide)
      exact (h.setStage .body hstore fun _ => hheader).addRequest _
  · exact rfl

/-- The verification reads the bytes of the assembled frame alone. -/
theorem verifyFrame_alike (h : SameButUnloaded s t) {m m' : Memory} {len : Byte} (long : 2 ≤ len.toNat)
    (hm : AgreeBelow len.toNat m m') (hkeep : ∀ n, AgreeBelow n s.rxb t.rxb → AgreeBelow n m m') :
    StepAlike (verifyFrame len { s with rxb := m }) (verifyFrame len { t with rxb := m' }) := by
  have hacc := h.setAcc (fold (Memory.slice m 0 (len.toNat - 2)))
  simp only [verifyFrame, ← hm.slice (Nat.sub_le _ _), ← hm.read (len.toNat - 2) (by omega)]
  split
  · exact (hacc.holdFrame len hm).respond_alike _ _
  · exact (hacc.setStage .idle hkeep nofun).raise_alike _

theorem bodyReply_alike (h : SameButUnloaded s t) (hs : s.rxstate = .body) (r : List Byte) :
    StepAlike (bodyReply r s) (bodyReply r t) := by
  have hlen : Memory.read t.rxb 1 = Memory.read s.rxb 1 := (h.header hs 1 (by decide)).symm
  simp only [bodyReply, hlen]
  split
  · exact rfl
  next hlong =>
    split
    · exact rfl
    next hover =>
      split
      · exact h.failReceive_alike _
      next hshort =>
        have hlong : 2 ≤ (Memory.read s.rxb 1).toNat := Nat.le_of_not_lt hlong
        have hfull : 2 + r.length = (Memory.read s.rxb 1).toNat := by omega
        have hfits : 2 + r.length ≤ 255 := by omega
        exact h.verifyFrame_alike hlong (hfull ▸ (h.headerAgree hs).pushList hfits)
          fun _ hm => hm.writeList hfits

theorem externalStep_alike (h : SameButUnloaded s t) (e : External) :
    StepAlike (externalStep e s) (externalStep e t) := by
  cases e with
  | hardReset => exact h.resetRegisters
  | reply r =>
    have ht := h.rxstate_eq
    cases hs : s.rxstate <;> rw [hs] at ht <;> simp only [externalStep, hs, ht]
    case idle => exact h
    case hdr => exact h.headerReply_alike r
    case body => exact h.bodyReply_alike hs r

theorem noInput_alike (h : SameButUnloaded s t) : StepAlike (noInput s) (noInput t) := by
  unfold noInput
  rw [h.rxstate_eq]
  split
  · exact h
  · exact rfl
  · exact rfl

theorem runCommand_alike (h : SameButUnloaded s t) (w : CommandWord) :
    StepAlike (runCommand w s) (runCommand w t) := by
  cases hd : decode w with
  | ok i =>
    rw [runCommand_ok s hd, runCommand_ok t hd]
    exact h.exec_alike i
  | error e =>
    rw [runCommand_error s hd, runCommand_error t hd]
    exact h.raise_alike _

end SameButUnloaded

/-- Settles O47: both blocks take the same input, and every rule reads loaded bytes alone. -/
theorem unloadedBytesAreUnobservable : Obligations.UnloadedBytesAreUnobservable := by
  intro s t h
  have hnext : nextInput t.rxstate t.inputs = nextInput s.rxstate s.inputs := by rw [h.rxstate_eq, h.inputs_eq]
  unfold step
  rw [hnext]
  cases nextInput s.rxstate s.inputs with
  | none => exact h.noInput_alike
  | some p =>
    obtain ⟨x, rest⟩ := p
    cases x with
    | external e => exact (h.setInputs rest).externalStep_alike e
    | command w => exact (h.setInputs rest).runCommand_alike w

end Sys2Proof.Machine
end

section
/-! The input a step takes, and what the step then is (R60, R74, R130, R210). -/

namespace Sys2Proof.Machine

theorem step_of_command {s : State} {w : CommandWord} {rest : List Input}
    (h : nextInput s.rxstate s.inputs = some (.command w, rest)) :
    step s = runCommand w { s with inputs := rest } := by
  simp only [step, h]

theorem step_of_external {s : State} {e : External} {rest : List Input}
    (h : nextInput s.rxstate s.inputs = some (.external e, rest)) :
    step s = externalStep e { s with inputs := rest } := by
  simp only [step, h]

theorem step_of_none {s : State} (h : nextInput s.rxstate s.inputs = none) : step s = noInput s := by
  simp only [step, h]

theorem nextInput_idle_cons {s : State} {x : Input} {rest : List Input} (idle : s.rxstate = .idle)
    (first : s.inputs = x :: rest) : nextInput s.rxstate s.inputs = some (x, rest) := by
  rw [idle, first]
  rfl

theorem nextInput_idle_nil {s : State} (idle : s.rxstate = .idle) (empty : s.inputs = []) :
    nextInput s.rxstate s.inputs = none := by
  rw [idle, empty]
  rfl

theorem noInput_idle {s : State} (idle : s.rxstate = .idle) : noInput s = .next s := by
  simp only [noInput, idle]

/-- Settles O6: an idle block takes the oldest input, and its kind says which step is made. -/
theorem stepRunsDecodedOperation : Obligations.StepRunsDecodedOperation := by
  refine ⟨fun s w rest idle first => ?command, fun s e rest idle first => ?external, fun s idle empty => ?empty⟩
  case command =>
    have hstep : step s = runCommand w { s with inputs := rest } :=
      step_of_command (nextInput_idle_cons idle first)
    exact ⟨fun i hi => hstep.trans (runCommand_ok _ hi), fun ⟨_, answers⟩ => hstep.trans (answers _)⟩
  case external => exact step_of_external (nextInput_idle_cons idle first)
  case empty => exact (step_of_none (nextInput_idle_nil idle empty)).trans (noInput_idle idle)

end Sys2Proof.Machine
end

section
/-! The reading operations: the answer is a function of the registers and the buffers, not of the response
record, and the record is all that grows (R57). -/

namespace Sys2Proof.Machine

/-- On `s` the meaning `f` answers one word and changes nothing else, whatever responses went before. -/
def ReadsOnly (f : State → Host.Outcome State Fault Refusal) (s : State) : Prop :=
  ∃ w, ∀ log, f { s with responses := log } = .next { s with responses := log ++ [w] }

/-- A meaning that reads gives its word again when it runs on what it left. -/
theorem ReadsOnly.twice {f : State → Host.Outcome State Fault Refusal} {s : State} (h : ReadsOnly f s) :
    ∃ w, f s = .next { s with responses := s.responses ++ [w] } ∧
      f { s with responses := s.responses ++ [w] } = .next { s with responses := s.responses ++ [w] ++ [w] } := by
  obtain ⟨w, hw⟩ := h
  exact ⟨w, hw s.responses, hw (s.responses ++ [w])⟩

theorem execTxrd_readsOnly (a : Byte) (s : State) : ReadsOnly (execTxrd a) s := by
  by_cases loaded : offsetBelow a s.txlen = true
  · exact ⟨okWord 0x00 (Memory.read s.txb a.toNat), fun _ => if_pos loaded⟩
  · exact ⟨faultWord .badOffset, fun _ => if_neg loaded⟩

/-- NoFrame is tested before BadOffset (R129). -/
theorem execRxrd_readsOnly (a : Byte) (s : State) : ReadsOnly (execRxrd a) s := by
  by_cases held : s.rxvalid = true
  · by_cases received : offsetBelow a s.rxlen = true
    · exact ⟨okWord 0x00 (Memory.read s.rxb a.toNat), fun _ => (if_pos held).trans (if_pos received)⟩
    · exact ⟨faultWord .badOffset, fun _ => (if_pos held).trans (if_neg received)⟩
  · exact ⟨faultWord .noFrame, fun _ => if_neg held⟩

/-- The four status registers, and IllegalOp above them (R151). -/
theorem execStrd_readsOnly (a : Byte) (s : State) : ReadsOnly (execStrd a) s := by
  unfold ReadsOnly execStrd
  rcases a.toNat with _ | _ | _ | _ | _
  · exact ⟨okWord 0x00 (statusByte s.evalid s.rxvalid s.txvalid), fun _ => rfl⟩
  · exact ⟨okWord 0x00 s.txlen, fun _ => rfl⟩
  · exact ⟨okWord 0x00 s.rxlen, fun _ => rfl⟩
  · exact ⟨okWord (resultByte s.eshort s.emean) s.ecode, fun _ => rfl⟩
  · exact ⟨faultWord .illegalOp, fun _ => rfl⟩

theorem execCkrd_readsOnly (s : State) : ReadsOnly execCkrd s :=
  ⟨okWord s.acc (s.acc ^^^ 0xFF), fun _ => rfl⟩

theorem execEmlook_readsOnly (a : Byte) (s : State) : ReadsOnly (execEmlook a) s :=
  ⟨okWord (resultByte false (meaningIndex a)) a, fun _ => rfl⟩

/-- Settles O41: each of the five meanings only reads, so its second run answers the word of its first. -/
theorem readsChangeNothing : Obligations.ReadsChangeNothing := by
  rintro i s (⟨a, rfl⟩ | ⟨a, rfl⟩ | ⟨a, rfl⟩ | rfl | ⟨a, rfl⟩)
  · exact (execTxrd_readsOnly a s).twice
  · exact (execRxrd_readsOnly a s).twice
  · exact (execStrd_readsOnly a s).twice
  · exact (execCkrd_readsOnly s).twice
  · exact (execEmlook_readsOnly a s).twice

end Sys2Proof.Machine
end

section
/-! The words of the operations and their meanings (R70, R72 to R74, R76): decoder, encoder and opcode map all
speak of one relation between an operation and its word. -/

namespace Sys2Proof

/-- `w` is the command word of the well-formed operation `i`. -/
def HasWord (i : Instr) (w : CommandWord) : Prop := i.wellFormed = true ∧ encode i = w

/-- Settles O1: each word is written out and decodes by computation. -/
theorem wordsDecodeAsTabled : Obligations.WordsDecodeAsTabled := by
  unfold Obligations.WordsDecodeAsTabled
  decide

/-- Settles O2: the fields of the word select the operation's arm, and the arm finds its unused fields zero
and the register number of STRD below 4. -/
theorem decodeInvertsEncode : Obligations.DecodeInvertsEncode := by
  intro i hi
  cases i with
  | strd a =>
    have ha : a.toNat < 4 := of_decide_eq_true hi
    exact (decode_commandWord 0x01 a 0x00).trans ((if_pos rfl).trans (if_pos ha))
  | srst | ckclr | ckrd | txclr | txstamp | txseal | recv | classify => rfl
  | ckupd a | txpush a | txrd a | rxrd a | emlook a => exact (decode_commandWord _ a 0x00).trans (if_pos rfl)
  | txpoke a b => exact decode_commandWord 0x22 a b

/-! What each form of operands admits, read back as a word. -/

section Forms

variable {op a b : Byte} {n : Nat} {j : Instr}

theorem hasWord_of_decodeNone {i : Instr} (hop : op.toNat = n) (hi : i.wellFormed = true)
    (hword : encode i = commandWord (BitVec.ofNat 8 n) 0x00 0x00) (h : decodeNone i a b = .ok j) :
    HasWord j (commandWord op a b) := by
  unfold decodeNone at h
  split at h
  next hzero =>
    obtain ⟨rfl, rfl⟩ := hzero
    cases h
    exact ⟨hi, by simp [hword, ← hop]⟩
  · cases h

theorem hasWord_of_decodeOne {f : Byte → Instr} (hop : op.toNat = n) (hi : (f a).wellFormed = true)
    (hword : encode (f a) = commandWord (BitVec.ofNat 8 n) a 0x00) (h : decodeOne f a b = .ok j) :
    HasWord j (commandWord op a b) := by
  unfold decodeOne at h
  split at h
  next hzero =>
    subst hzero
    cases h
    exact ⟨hi, by simp [hword, ← hop]⟩
  · cases h

theorem hasWord_of_decodeStrd (hop : op.toNat = 0x01) (h : decodeStrd a b = .ok j) :
    HasWord j (commandWord op a b) := by
  unfold decodeStrd at h
  split at h
  next hzero =>
    split at h
    next hreg =>
      subst hzero
      cases h
      obtain rfl : op = 0x01 := BitVec.eq_of_toNat_eq hop
      exact ⟨decide_eq_true hreg, rfl⟩
    · cases h
  · cases h

end Forms

/-- An operation decoded from three fields has the word of those fields. -/
theorem hasWord_of_decode_fields {op a b : Byte} {i : Instr} (h : decode (commandWord op a b) = .ok i) :
    HasWord i (commandWord op a b) := by
  rw [decode_commandWord] at h
  split at h
  next hop => exact hasWord_of_decodeStrd hop h
  next hop => exact hasWord_of_decodeNone hop rfl rfl h
  next hop => exact hasWord_of_decodeNone hop rfl rfl h
  next hop => exact hasWord_of_decodeOne hop rfl rfl h
  next hop => exact hasWord_of_decodeNone hop rfl rfl h
  next hop => exact hasWord_of_decodeNone hop rfl rfl h
  next hop => exact hasWord_of_decodeOne hop rfl rfl h
  next hop =>
    cases h
    obtain rfl : op = 0x22 := BitVec.eq_of_toNat_eq hop
    exact ⟨rfl, rfl⟩
  next hop => exact hasWord_of_decodeNone hop rfl rfl h
  next hop => exact hasWord_of_decodeNone hop rfl rfl h
  next hop => exact hasWord_of_decodeOne hop rfl rfl h
  next hop => exact hasWord_of_decodeNone hop rfl rfl h
  next hop => exact hasWord_of_decodeOne hop rfl rfl h
  next hop => exact hasWord_of_decodeNone hop rfl rfl h
  next hop => exact hasWord_of_decodeOne hop rfl rfl h
  · cases h

/-- The decoder answers an operation exactly on that operation's word. -/
theorem decode_eq_ok_iff {w : CommandWord} {i : Instr} : decode w = .ok i ↔ HasWord i w := by
  constructor
  · intro h
    rw [← commandWord_fields w] at h ⊢
    exact hasWord_of_decode_fields h
  · rintro ⟨hi, rfl⟩
    exact decodeInvertsEncode i hi

/-- Settles O3: one direction of `decode_eq_ok_iff`. -/
theorem encodeInvertsDecode : Obligations.EncodeInvertsDecode := fun _ _ h => decode_eq_ok_iff.1 h

/-- A word is rejected exactly when no operation has it (R74). -/
theorem rejected_iff_no_word {w : CommandWord} : Machine.Rejected w ↔ ∀ i, ¬ HasWord i w := by
  rw [rejected_iff]
  constructor
  · rintro ⟨e, he⟩ i hi
    cases he.symm.trans (decode_eq_ok_iff.2 hi)
  · intro h
    cases hd : decode w with
    | ok i => exact absurd (decode_eq_ok_iff.1 hd) (h i)
    | error e => exact ⟨e, rfl⟩

/-! The match and mask columns of R73. -/

/-- A row whose pattern has no operand bit, by its `op` value and the masks of the two operand fields. -/
def opcodeRow (mnemonic : String) (op aMask bMask : Byte) : OpcodeRow :=
  ⟨mnemonic, commandWord op 0x00 0x00, commandWord 0xFF aMask bMask⟩

theorem opcodeTable_eq :
    opcodeTable =
      [opcodeRow "STRD" 0x01 0xFC 0xFF, opcodeRow "SRST" 0x02 0xFF 0xFF,
       opcodeRow "CKCLR" 0x10 0xFF 0xFF, opcodeRow "CKUPD" 0x11 0x00 0xFF, opcodeRow "CKRD" 0x12 0xFF 0xFF,
       opcodeRow "TXCLR" 0x20 0xFF 0xFF, opcodeRow "TXPUSH" 0x21 0x00 0xFF, opcodeRow "TXPOKE" 0x22 0x00 0x00,
       opcodeRow "TXSTAMP" 0x23 0xFF 0xFF, opcodeRow "TXSEAL" 0x24 0xFF 0xFF, opcodeRow "TXRD" 0x25 0x00 0xFF,
       opcodeRow "RECV" 0x30 0xFF 0xFF, opcodeRow "RXRD" 0x31 0x00 0xFF,
       opcodeRow "CLASSIFY" 0x40 0xFF 0xFF, opcodeRow "EMLOOK" 0x41 0x00 0xFF] := rfl

/-- A row accepts a word by its fields: the `op` value, and no operand bit under the masks. -/
theorem opcodeRow_accepts_iff {mnemonic : String} {op aMask bMask : Byte} {w : CommandWord} :
    (opcodeRow mnemonic op aMask bMask).accepts w = true ↔
      opField w = op ∧ aField w &&& aMask = 0x00 ∧ bField w &&& bMask = 0x00 := by
  have hand : w &&& commandWord 0xFF aMask bMask =
      commandWord (opField w) (aField w &&& aMask) (bField w &&& bMask) := by
    conv_lhs => rw [← commandWord_fields w]
    unfold commandWord
    rw [BitVec.and_append, BitVec.and_append]
    congr 2
    exact BitVec.and_allOnes
  rw [OpcodeRow.accepts, beq_iff_eq, opcodeRow, hand]
  constructor
  · intro h
    exact ⟨by simpa using congrArg opField h, by simpa using congrArg aField h, by simpa using congrArg bField h⟩
  · rintro ⟨hop, ha, hb⟩
    rw [hop, ha, hb]

/-- The mask of STRD admits the register numbers 0 to 3 alone. -/
theorem strdMask_admits : ∀ a : Byte, a &&& 0xFC = 0x00 → a.toNat < 4 := by decide

/-! What a row that accepts a word says of it, for the masks of the table. -/

section Rows

variable {mnemonic : String} {op : Byte} {w : CommandWord}

theorem eq_of_accepts_none (h : (opcodeRow mnemonic op 0xFF 0xFF).accepts w = true) :
    commandWord op 0x00 0x00 = w := by
  obtain ⟨rfl, ha, hb⟩ := opcodeRow_accepts_iff.1 h
  rw [show (0xFF : Byte) = BitVec.allOnes 8 from rfl, BitVec.and_allOnes] at ha hb
  simpa only [ha, hb] using commandWord_fields w

theorem eq_of_accepts_one {aMask : Byte} (h : (opcodeRow mnemonic op aMask 0xFF).accepts w = true) :
    commandWord op (aField w) 0x00 = w := by
  obtain ⟨rfl, _, hb⟩ := opcodeRow_accepts_iff.1 h
  rw [show (0xFF : Byte) = BitVec.allOnes 8 from rfl, BitVec.and_allOnes] at hb
  simpa only [hb] using commandWord_fields w

theorem eq_of_accepts_two (h : (opcodeRow mnemonic op 0x00 0x00).accepts w = true) :
    commandWord op (aField w) (bField w) = w := by
  obtain ⟨rfl, _, _⟩ := opcodeRow_accepts_iff.1 h
  exact commandWord_fields w

end Rows

/-- A word that a row accepts is the word of an operation with the row's mnemonic. -/
theorem exists_hasWord_of_accepts {w : CommandWord} :
    ∀ r ∈ opcodeTable, r.accepts w = true → ∃ i, HasWord i w ∧ i.mnemonic = r.mnemonic := by
  rw [opcodeTable_eq]
  simp only [List.forall_mem_cons]
  refine ⟨fun h => ?strd, fun h => ⟨.srst, ⟨rfl, eq_of_accepts_none h⟩, rfl⟩,
    fun h => ⟨.ckclr, ⟨rfl, eq_of_accepts_none h⟩, rfl⟩, fun h => ⟨.ckupd _, ⟨rfl, eq_of_accepts_one h⟩, rfl⟩,
    fun h => ⟨.ckrd, ⟨rfl, eq_of_accepts_none h⟩, rfl⟩, fun h => ⟨.txclr, ⟨rfl, eq_of_accepts_none h⟩, rfl⟩,
    fun h => ⟨.txpush _, ⟨rfl, eq_of_accepts_one h⟩, rfl⟩, fun h => ⟨.txpoke _ _, ⟨rfl, eq_of_accepts_two h⟩, rfl⟩,
    fun h => ⟨.txstamp, ⟨rfl, eq_of_accepts_none h⟩, rfl⟩, fun h => ⟨.txseal, ⟨rfl, eq_of_accepts_none h⟩, rfl⟩,
    fun h => ⟨.txrd _, ⟨rfl, eq_of_accepts_one h⟩, rfl⟩, fun h => ⟨.recv, ⟨rfl, eq_of_accepts_none h⟩, rfl⟩,
    fun h => ⟨.rxrd _, ⟨rfl, eq_of_accepts_one h⟩, rfl⟩, fun h => ⟨.classify, ⟨rfl, eq_of_accepts_none h⟩, rfl⟩,
    fun h => ⟨.emlook _, ⟨rfl, eq_of_accepts_one h⟩, rfl⟩, nofun⟩
  case strd =>
    have hreg := strdMask_admits _ (opcodeRow_accepts_iff.1 h).2.1
    exact ⟨.strd _, ⟨decide_eq_true hreg, eq_of_accepts_one h⟩, rfl⟩

/-- The row that bears an operation's mnemonic accepts its word: the family `EncodeRow`. -/
theorem encodeRow (i : Instr) : Laws.EncodeRow.Statement i := by
  cases i with
  | strd a => exact Laws.EncodeRow.strd a
  | srst => exact Laws.EncodeRow.srst
  | ckclr => exact Laws.EncodeRow.ckclr
  | ckupd a => exact Laws.EncodeRow.ckupd a
  | ckrd => exact Laws.EncodeRow.ckrd
  | txclr => exact Laws.EncodeRow.txclr
  | txpush a => exact Laws.EncodeRow.txpush a
  | txpoke a b => exact Laws.EncodeRow.txpoke a b
  | txstamp => exact Laws.EncodeRow.txstamp
  | txseal => exact Laws.EncodeRow.txseal
  | txrd a => exact Laws.EncodeRow.txrd a
  | recv => exact Laws.EncodeRow.recv
  | rxrd a => exact Laws.EncodeRow.rxrd a
  | classify => exact Laws.EncodeRow.classify
  | emlook a => exact Laws.EncodeRow.emlook a

/-- The table has a row for every mnemonic. -/
theorem exists_row (i : Instr) : ∃ r ∈ opcodeTable, r.mnemonic = i.mnemonic := by
  have hlisted : i.mnemonic ∈ opcodeTable.map OpcodeRow.mnemonic := by
    cases i <;> simp [opcodeTable, Instr.mnemonic]
  exact List.mem_map.1 hlisted

/-- A word has one operation, so a row accepts the word of an operation exactly if it bears its mnemonic. -/
theorem accepts_iff_of_hasWord {i : Instr} {w : CommandWord} (h : HasWord i w) :
    ∀ r ∈ opcodeTable, r.accepts w = true ↔ r.mnemonic = i.mnemonic := by
  refine fun r hr => ⟨fun hacc => ?_, fun hname => h.2 ▸ encodeRow i h.1 r hr hname⟩
  obtain ⟨j, hj, hname⟩ := exists_hasWord_of_accepts r hr hacc
  cases (decode_eq_ok_iff.2 hj).symm.trans (decode_eq_ok_iff.2 h)
  exact hname.symm

/-- Settles O4: rows accept the words of operations and no others. -/
theorem decoderAgreesWithOpcodeMap : Obligations.DecoderAgreesWithOpcodeMap := by
  refine fun w => ⟨fun i hi => accepts_iff_of_hasWord (decode_eq_ok_iff.1 hi), ?_⟩
  rw [rejected_iff_no_word]
  constructor
  · intro hnone r hr
    refine Bool.eq_false_iff.2 fun hacc => ?_
    obtain ⟨i, hi, _⟩ := exists_hasWord_of_accepts r hr hacc
    exact hnone i hi
  · intro hnone i hi
    obtain ⟨r, hr, hname⟩ := exists_row i
    exact Bool.eq_false_iff.1 (hnone r hr) ((accepts_iff_of_hasWord hi r hr).2 hname)

/-! What the three fields of an operation's word can be (R70, R73). -/

section Fields

variable {i : Instr} {op a b : Byte}

theorem HasWord.fields (h : HasWord i (commandWord op a b)) :
    opField (encode i) = op ∧ aField (encode i) = a ∧ bField (encode i) = b := by
  rw [h.2]
  exact ⟨opField_commandWord op a b, aField_commandWord op a b, bField_commandWord op a b⟩

theorem HasWord.op_mem (h : HasWord i (commandWord op a b)) :
    op.toNat ∈ [0x01, 0x02, 0x10, 0x11, 0x12, 0x20, 0x21, 0x22, 0x23, 0x24, 0x25, 0x30, 0x31, 0x40, 0x41] := by
  obtain ⟨rfl, _, _⟩ := h.fields
  cases i <;> simp [encode]

/-- An operation without operands leaves both fields zero. -/
theorem HasWord.operands_zero (h : HasWord i (commandWord op a b))
    (hop : op.toNat ∈ [0x02, 0x10, 0x12, 0x20, 0x23, 0x24, 0x30, 0x40]) : a = 0 ∧ b = 0 := by
  obtain ⟨rfl, rfl, rfl⟩ := h.fields
  cases i with
  | srst | ckclr | ckrd | txclr | txstamp | txseal | recv | classify => simp [encode]
  | strd | ckupd | txpush | txpoke | txrd | rxrd | emlook => simp [encode] at hop

/-- An operation with one operand leaves the second field zero. -/
theorem HasWord.second_zero (h : HasWord i (commandWord op a b))
    (hop : op.toNat ∈ [0x01, 0x11, 0x21, 0x25, 0x31, 0x41]) : b = 0 := by
  obtain ⟨rfl, _, rfl⟩ := h.fields
  cases i with
  | strd | ckupd | txpush | txrd | rxrd | emlook => simp [encode]
  | srst | ckclr | ckrd | txclr | txpoke | txstamp | txseal | recv | classify => simp [encode] at hop

/-- The register number of STRD is below 4. -/
theorem HasWord.register_lt (h : HasWord i (commandWord 0x01 a b)) : a.toNat < 4 := by
  obtain ⟨hop, rfl, _⟩ := h.fields
  cases i with
  | strd a => simpa [encode] using of_decide_eq_true h.1
  | _ => simp [encode] at hop

end Fields

/-- Settles O5: a word with such fields is no operation's, and such words are the rejected ones. -/
theorem unmatchedWordIsIllegalOp : Obligations.UnmatchedWordIsIllegalOp := by
  refine ⟨fun op a b hop => ?unassigned, fun op a b hop hne => ?operands, fun op a b hop hb => ?second,
    fun a b ha => ?register, ?zero, fun w => (rejected_iff w).2⟩
  case unassigned => exact rejected_iff_no_word.2 fun i hi => hop hi.op_mem
  case operands =>
    refine rejected_iff_no_word.2 fun i hi => ?_
    obtain ⟨ha, hb⟩ := hi.operands_zero hop
    exact hne.elim (· ha) (· hb)
  case second => exact rejected_iff_no_word.2 fun i hi => hb (hi.second_zero hop)
  case register =>
    refine rejected_iff_no_word.2 fun i hi => ?_
    have := hi.register_lt
    omega
  case zero => exact (rejected_iff _).2 ⟨.unassignedOpcode, rfl⟩

end Sys2Proof
end

section
/-! The status code of a response word, and that a fault is its word and nothing else (R71, R190, R194). -/

namespace Sys2Proof.Machine

@[simp] theorem responseWord_code (code d1 d0 : Byte) :
    (responseWord code d1 d0).extractLsb' 16 8 = code :=
  opField_commandWord code d1 d0

/-- `w` carries a code other than OK. -/
def IsFaultWord (w : ResponseWord) : Prop := w.extractLsb' 16 8 ≠ StatusCode.ok.code

theorem not_isFaultWord_okWord (d1 d0 : Byte) : ¬ IsFaultWord (okWord d1 d0) :=
  fun h => h (responseWord_code _ d1 d0)

theorem faultWord_data (c : StatusCode) : (faultWord c).extractLsb' 0 16 = 0#16 := by
  cases c <;> decide

/-- The word by which a log grew is the last one delivered. -/
theorem eq_of_addResponse {log : List ResponseWord} {v w : ResponseWord} (h : log ++ [v] = log ++ [w]) :
    v = w :=
  List.singleton_inj.1 (List.append_cancel_left h)

/-- A log that has grown is another log. -/
theorem ne_append_singleton (log : List ResponseWord) (w : ResponseWord) : log ≠ log ++ [w] :=
  fun h => List.cons_ne_nil w [] (List.self_eq_append_right.1 h)

/-- An operation that answers a fault does nothing else. -/
theorem exec_fault {i : Instr} {s t : State} {w : ResponseWord} (h : exec i s = .next t)
    (hw : t.responses = s.responses ++ [w]) (hfault : IsFaultWord w) :
    ∃ c : StatusCode, c ≠ .ok ∧ w = faultWord c ∧ t = s.addResponse w := by
  rcases exec_cases i s with ⟨rfl, _⟩ | ⟨d1, d0, u, he, hu⟩ | ⟨c, hc, he⟩
  · cases h
    exact absurd hw (ne_append_singleton _ _)
  · cases he.symm.trans h
    rw [addResponse_responses, hu.responses] at hw
    cases eq_of_addResponse hw
    exact absurd hfault (not_isFaultWord_okWord d1 d0)
  · cases he.symm.trans h
    cases eq_of_addResponse hw
    exact ⟨c, hc, rfl, rfl⟩

/-- The fault `w` ended a receive: the stage is IDLE, the buffer and ACC may have been written, and ACC was by
ChecksumMismatch alone. -/
def EndsReceiveWith (w : ResponseWord) (s t : State) : Prop :=
  t = { s with rxb := t.rxb, acc := t.acc, rxstate := .idle, responses := s.responses ++ [w] } ∧
    (w = 0x010000 ∨ w = 0x020000 ∨ w = 0x140000) ∧ (w ≠ 0x020000 → t.acc = s.acc)

theorem ReplyEffect.endsReceive {r : List Byte} {s t : State} {w : ResponseWord} (h : ReplyEffect s r t)
    (hw : t.responses = s.responses ++ [w]) (hfault : IsFaultWord w) : EndsReceiveWith w s t := by
  cases h with
  | ignored | header => exact absurd hw (ne_append_singleton _ _)
  | noReply =>
    cases eq_of_addResponse hw
    exact ⟨rfl, .inl rfl, fun _ => rfl⟩
  | badLength =>
    cases eq_of_addResponse hw
    exact ⟨rfl, .inr (.inr rfl), fun _ => rfl⟩
  | mismatch =>
    cases eq_of_addResponse hw
    exact ⟨rfl, .inr (.inl rfl), fun hne => absurd rfl hne⟩
  | frame _ len =>
    cases eq_of_addResponse hw
    exact absurd hfault (not_isFaultWord_okWord 0x00 len)

/-- Settles O42: by `exec_fault` for the operations and by the effects of replies. -/
theorem faultsArePrecise : Obligations.FaultsArePrecise := by
  refine ⟨fun i s t w h hw hfault => ?_, fun r s t w h => (reply_effect h).endsReceive⟩
  obtain ⟨c, hc, rfl, rfl⟩ := exec_fault h hw hfault
  exact ⟨rfl, faultWord_data c, c, hc, rfl⟩

end Sys2Proof.Machine
end

section
/-! The sequence of `fold` and `pair` (R78, R90, R91). -/

namespace Sys2Proof.Machine

theorem execAll_cons {i : Instr} {s t : State} (is : List Instr) (h : exec i s = .next t) :
    execAll (i :: is) s = execAll is t := by
  simp only [execAll, h]

theorem execAll_append_of_next {is : List Instr} {s t : State} (js : List Instr)
    (h : execAll is s = .next t) : execAll (is ++ js) s = execAll js t := by
  rw [execAll_append, h]

/-- CKUPD of each byte folds the bytes into ACC, one answer for each. -/
theorem execAll_ckupd (bytes : List Byte) (s : State) :
    ∃ answers : List ResponseWord, answers.length = bytes.length ∧
      execAll (bytes.map .ckupd) s =
        .next { s with acc := s.acc ^^^ fold bytes, responses := s.responses ++ answers } := by
  induction bytes generalizing s with
  | nil => exact ⟨[], rfl, by simp [execAll]⟩
  | cons x bytes ih =>
    obtain ⟨answers, hlen, he⟩ := ih (State.addResponse { s with acc := s.acc ^^^ x } (okWord 0x00 (s.acc ^^^ x)))
    refine ⟨okWord 0x00 (s.acc ^^^ x) :: answers, by simp [hlen], ?_⟩
    rw [List.map_cons, execAll_cons _ (rfl : exec (.ckupd x) s = _), he, fold_cons, ← BitVec.xor_assoc]
    simp [State.addResponse]

/-- CKCLR clears ACC, the bytes are folded into it, and CKRD answers its pair. -/
theorem execAll_foldSequence (bytes : List Byte) (s : State) :
    ∃ answers : List ResponseWord, answers.length = bytes.length + 1 ∧
      execAll (foldSequence bytes) s =
        .next { s with
          acc := fold bytes
          responses := s.responses ++ answers ++ [okWord (fold bytes) (fold bytes ^^^ 0xFF)] } := by
  obtain ⟨answers, hlen, hfold⟩ :=
    execAll_ckupd bytes (State.addResponse { s with acc := 0x00 } (okWord 0x00 0x00))
  refine ⟨okWord 0x00 0x00 :: answers, by simp [hlen], ?_⟩
  rw [foldSequence, execAll_cons _ (rfl : exec .ckclr s = _), execAll_append_of_next _ hfold]
  simp [execAll, exec, execCkrd, State.addResponse]

/-- Settles O49: by `execAll_foldSequence`. -/
theorem foldSequenceAnswersPair : Obligations.FoldSequenceAnswersPair := by
  intro bytes s
  obtain ⟨answers, hlen, he⟩ := execAll_foldSequence bytes s
  exact ⟨_, answers, he, rfl, rfl, hlen, rfl⟩

end Sys2Proof.Machine
end

section
/-! The built frame of the document's functions: bytes and their pair behind them (R78, R79, R103, R105). -/

namespace Sys2Proof.Machine

/-- The bytes and their checksum pair (R91). -/
def withPair (covered : List Byte) : List Byte := covered ++ [(pair covered).1, (pair covered).2]

@[simp] theorem length_withPair (covered : List Byte) : (withPair covered).length = covered.length + 2 := by
  simp [withPair]

theorem withPair_getElem? {covered : List Byte} {i : Nat} (hi : i < covered.length) :
    (withPair covered)[i]? = covered[i]? :=
  List.getElem?_append_left hi

/-- The pair covers all bytes but the last two. -/
theorem withPair_covered (covered : List Byte) :
    (withPair covered).take ((withPair covered).length - 2) = covered := by
  rw [length_withPair, Nat.add_sub_cancel, withPair, List.take_left]

/-- The pair is in place, so the frame is a CommandFrame by its header and its length alone. -/
theorem isCommandFrame_withPair {covered : List Byte} (hc : 2 ≤ covered.length) :
    IsCommandFrame (withPair covered) ↔
      covered[0]? = some Config.sof ∧ covered[1]? = some (BitVec.ofNat 8 (covered.length + 2)) ∧
        covered.length + 2 ≤ 255 := by
  unfold IsCommandFrame
  rw [withPair_getElem? (by omega), withPair_getElem? (by omega), length_withPair]
  constructor
  · rintro ⟨hsof, hlen, hmax, _⟩
    exact ⟨hsof, hlen, hmax⟩
  · rintro ⟨hsof, hlen, hmax⟩
    exact ⟨hsof, hlen, hmax, covered, rfl⟩

theorem stampBytes_eq_some {t f : List Byte} (h : stampBytes t = some f) :
    2 ≤ t.length ∧ f = withPair (t.take (t.length - 2)) := by
  have hlong := (stampBytes_length h).1
  simp only [stampBytes] at h
  split at h
  · cases h
  · cases h
    exact ⟨hlong, rfl⟩

theorem buildFixed_eq_some {template f : List Byte} {mutations : List (Byte × Byte)}
    (h : buildFixed template mutations = some f) :
    ∃ t, applyMutations template mutations = some t ∧ stampBytes t = some f := by
  unfold buildFixed at h
  split at h
  · cases h
  next t ht => exact ⟨t, ht, h⟩

/-- The bytes a seal covers: the total size goes to byte 1 (R105). -/
def withLength (body : List Byte) : List Byte := body.set 1 (BitVec.ofNat 8 (body.length + 2))

@[simp] theorem length_withLength (body : List Byte) : (withLength body).length = body.length :=
  List.length_set

theorem buildEnvelope_eq_some {header payload f : List Byte} (h : buildEnvelope header payload = some f) :
    2 ≤ (header ++ payload).length ∧ (header ++ payload).length ≤ 253 ∧
      f = withPair (withLength (header ++ payload)) := by
  simp only [buildEnvelope] at h
  split at h
  · cases h
  next hrange =>
    cases h
    rw [not_or, Nat.not_lt, Nat.not_lt] at hrange
    exact ⟨hrange.1, hrange.2, rfl⟩

/-- Settles O52: the header's first byte is the frame's, byte 1 is the total size, and the pair ends it. -/
theorem envelopeIsCommandFrame : Obligations.EnvelopeIsCommandFrame := by
  intro header payload f hsof h
  obtain ⟨hlong, hroom, rfl⟩ := buildEnvelope_eq_some h
  have hfirst : (withLength (header ++ payload))[0]? = some Config.sof := by
    rw [withLength, List.getElem?_set_ne (by decide), ← List.head?_eq_getElem?, List.head?_append, hsof]
    rfl
  have hsize : (withLength (header ++ payload))[1]? = some (BitVec.ofNat 8 ((header ++ payload).length + 2)) :=
    List.getElem?_set_self hlong
  constructor
  · rw [isCommandFrame_withPair (by rwa [length_withLength]), length_withLength]
    exact ⟨hfirst, hsize, by omega⟩
  · simp

end Sys2Proof.Machine
end

section
/-! The frame builder's operations on the bytes loaded in TXB (R100 to R105). -/

namespace Sys2Proof.Machine

/-- A stamp or seal leaves the bytes under the pair alone. -/
theorem slice_writePair {m : Memory} {n : Nat} (c : Byte) (hm : Memory.wf m = true) (hn : n + 1 < 255) :
    Memory.slice (Memory.writePair m n c) 0 (n + 2) = Memory.slice m 0 n ++ [c, c ^^^ 0xFF] := by
  have hread := fun j => read_writePair m n j c hm hn
  have hcovered : Memory.slice (Memory.writePair m n c) 0 n = Memory.slice m 0 n :=
    slice_congr fun i _ hi => by rw [hread, if_neg (by omega), if_neg (by omega)]
  rw [slice_succ _ (by omega), slice_succ _ (by omega), hcovered, hread, hread, if_neg (by omega), if_pos rfl,
    if_pos rfl, List.append_assoc]
  rfl

/-- A write to a byte of a slice sets that byte. -/
theorem slice_write {m : Memory} {n a : Nat} (v : Byte) (hm : Memory.wf m = true) :
    Memory.slice (Memory.write m a v) 0 n = (Memory.slice m 0 n).set a v := by
  refine List.ext_getElem? fun i => ?_
  rw [List.getElem?_set, length_slice]
  by_cases hi : i < n
  · rw [slice_getElem? _ _ _ _ (by omega), slice_getElem? _ _ _ _ (by omega), read_write _ _ _ hm]
    by_cases ha : a = i
    · simp [ha, hi]
    · simp [ha, Ne.symm ha]
  · have hnone : ∀ m' : Memory, (Memory.slice m' 0 n)[i]? = none :=
      fun m' => List.getElem?_eq_none (by simpa using hi)
    rw [hnone, hnone]
    by_cases ha : a = i
    · simp [ha, hi]
    · simp [ha]

/-- TXB, in canonical form, is loaded with `bytes`. -/
structure Holds (s : State) (bytes : List Byte) : Prop where
  form : Memory.wf s.txb = true
  frame : s.txFrame = bytes

theorem Holds.length_eq {s : State} {bytes : List Byte} (h : Holds s bytes) : bytes.length = s.txlen.toNat := by
  rw [← h.frame, State.txFrame, length_slice, Nat.sub_zero]

/-- From `s` to `t` the transmit state, ACC and the responses alone may have changed. -/
def OnlyBuilds (s t : State) : Prop :=
  t = { s with txb := t.txb, txlen := t.txlen, txvalid := t.txvalid, acc := t.acc, responses := t.responses }

theorem OnlyBuilds.trans {s t u : State} (hst : OnlyBuilds s t) (htu : OnlyBuilds t u) : OnlyBuilds s u :=
  Eq.trans htu <| congrArg (fun x : State =>
    { x with txb := u.txb, txlen := u.txlen, txvalid := u.txvalid, acc := u.acc, responses := u.responses }) hst

/-- From `s` the operations complete, only build, and leave a state of which `P` holds. -/
def Completes (is : List Instr) (s : State) (P : State → Prop) : Prop :=
  ∃ t, execAll is s = .next t ∧ OnlyBuilds s t ∧ P t

section Sequences

variable {s : State} {P Q : State → Prop}

theorem Completes.nil (h : P s) : Completes [] s P := ⟨s, rfl, rfl, h⟩

theorem Completes.one {i : Instr} {t : State} (he : exec i s = .next t) (hst : OnlyBuilds s t) (h : P t) :
    Completes [i] s P :=
  ⟨t, execAll_cons [] he, hst, h⟩

theorem Completes.append {is js : List Instr} (h : Completes is s P) (hjs : ∀ t, P t → Completes js t Q) :
    Completes (is ++ js) s Q := by
  obtain ⟨t, ht, hst, hp⟩ := h
  obtain ⟨u, hu, htu, hq⟩ := hjs t hp
  exact ⟨u, (execAll_append_of_next js ht).trans hu, hst.trans htu, hq⟩

end Sequences

section Operations

variable {s : State} {bytes : List Byte}

theorem completes_txclr (hm : Memory.wf s.txb = true) : Completes [.txclr] s (Holds · []) :=
  .one rfl rfl ⟨hm, slice_self s.txb 0⟩

theorem Holds.completes_txpush (h : Holds s bytes) (a : Byte) (room : bytes.length < 255) :
    Completes [.txpush a] s (Holds · (bytes ++ [a])) := by
  rw [h.length_eq] at room
  rcases execTxpush_cases a s with ⟨hfull, _⟩ | ⟨_, he⟩
  · omega
  · refine .one he rfl ⟨wf_write a h.form room, ?_⟩
    have hlen : (s.txlen + 1).toNat = s.txlen.toNat + 1 := by bv_omega
    have hread := fun j => read_write s.txlen.toNat j a h.form
    have hbelow : Memory.slice (Memory.write s.txb s.txlen.toNat a) 0 s.txlen.toNat = s.txFrame :=
      slice_congr fun i _ hi => by rw [hread, if_neg (by omega)]
    show Memory.slice (Memory.write s.txb s.txlen.toNat a) 0 (s.txlen + 1).toNat = _
    rw [hlen, slice_succ _ (Nat.zero_le _), hbelow, h.frame, hread, if_pos rfl]

theorem Holds.completes_txpoke (h : Holds s bytes) {a : Byte} (b : Byte) (loaded : a.toNat < bytes.length) :
    Completes [.txpoke a b] s (Holds · (bytes.set a.toNat b)) := by
  rw [h.length_eq] at loaded
  rcases execTxpoke_cases a b s with ⟨hout, _⟩ | ⟨_, he⟩
  · omega
  · have hfits : a.toNat < 255 := by omega
    exact .one he rfl ⟨wf_write b h.form hfits, h.frame ▸ slice_write b h.form⟩

/-- TXB holds `covered` with its pair behind, ACC its fold, and TXVALID says so. -/
structure Built (covered : List Byte) (t : State) : Prop where
  frame : t.txFrame = withPair covered
  acc : t.acc = fold covered
  valid : t.txvalid = true

theorem Holds.completes_txstamp (h : Holds s bytes) (long : 2 ≤ bytes.length) :
    Completes [.txstamp] s (Built (bytes.take (bytes.length - 2))) := by
  have hn := h.length_eq
  rw [hn] at long ⊢
  rcases execTxstamp_cases s with ⟨hshort, _⟩ | ⟨_, he⟩
  · omega
  · have hcovered : bytes.take (s.txlen.toNat - 2) = Memory.slice s.txb 0 (s.txlen.toNat - 2) := by
      rw [← h.frame, State.txFrame, slice_take _ _ _ (Nat.sub_le _ _)]
    have hpair := slice_writePair (fold (Memory.slice s.txb 0 (s.txlen.toNat - 2))) h.form
      (n := s.txlen.toNat - 2) (by omega)
    rw [Nat.sub_add_cancel long] at hpair
    rw [hcovered]
    exact .one he rfl ⟨hpair, rfl, rfl⟩

theorem Holds.completes_txseal (h : Holds s bytes) (long : 2 ≤ bytes.length) (room : bytes.length ≤ 253) :
    Completes [.txseal] s (Built (withLength bytes)) := by
  have hn := h.length_eq
  rw [hn] at long room
  rcases execTxseal_cases s with ⟨hshort, _⟩ | ⟨hlong, _⟩ | ⟨_, _, he⟩
  · omega
  · omega
  · have hlen : (s.txlen + 2).toNat = s.txlen.toNat + 2 := by bv_omega
    have hcovered : withLength bytes = Memory.slice (injectLength s) 0 s.txlen.toNat := by
      rw [injectLength, slice_write _ h.form, withLength, hn, ← h.frame, State.txFrame]
      rfl
    have hpair := slice_writePair (fold (Memory.slice (injectLength s) 0 s.txlen.toNat))
      (wf_injectLength h.form) (n := s.txlen.toNat) (by omega)
    rw [← hlen] at hpair
    rw [hcovered]
    exact .one he rfl ⟨hpair, rfl, rfl⟩

end Operations

/-- Settles O20: the stamp leaves the header bytes, so the frame is a CommandFrame by what the host loaded. -/
theorem stampedHeaderIsHostsDuty : Obligations.StampedHeaderIsHostsDuty := by
  intro s t hm hlen h
  have hloaded : Holds s s.txFrame := ⟨hm, rfl⟩
  have hn : s.txFrame.length = s.txlen.toNat := hloaded.length_eq
  obtain ⟨t', ht', _, hbuilt, _, _⟩ := hloaded.completes_txstamp (by omega)
  cases ht'.symm.trans (execAll_cons [] h)
  have hheader : ∀ i, i < 2 → (s.txFrame.take (s.txlen.toNat - 2))[i]? = some (Memory.read s.txb i) := by
    intro i hi
    rw [List.getElem?_take_of_lt (by omega), State.txFrame, slice_getElem? _ _ _ _ (by omega), Nat.zero_add]
  have hcovered : (s.txFrame.take (s.txlen.toNat - 2)).length = s.txlen.toNat - 2 := by
    rw [List.length_take, hn]
    omega
  rw [hbuilt, hn, isCommandFrame_withPair (by omega), hheader 0 (by decide), hheader 1 (by decide), hcovered,
    Nat.sub_add_cancel (by omega), BitVec.ofNat_toNat, BitVec.setWidth_eq, Option.some.injEq, Option.some.injEq]
  exact and_congr_right fun _ => and_iff_left (by omega)

end Sys2Proof.Machine
end

section
/-! The sequences of `build_fixed` and `build_envelope` (R78). -/

namespace Sys2Proof.Machine

section Loading

variable {s : State}

theorem Holds.completes_txpushes {held : List Byte} (h : Holds s held) (bytes : List Byte)
    (room : held.length + bytes.length ≤ 255) :
    Completes (bytes.map .txpush) s (Holds · (held ++ bytes)) := by
  induction bytes generalizing s held with
  | nil => exact .nil (by simpa using h)
  | cons a bytes ih =>
    rw [List.length_cons] at room
    have hfirst := h.completes_txpush a (by omega)
    simpa using hfirst.append fun t ht => ih ht (by rw [List.length_append, List.length_singleton]; omega)

theorem completes_loadSequence (hm : Memory.wf s.txb = true) {bytes : List Byte} (room : bytes.length ≤ 255) :
    Completes (loadSequence bytes) s (Holds · bytes) :=
  (completes_txclr hm).append fun _ ht => ht.completes_txpushes bytes (by simpa using room)

theorem Holds.completes_txpokes {held t : List Byte} (h : Holds s held) {mutations : List (Byte × Byte)}
    (ht : applyMutations held mutations = some t) :
    Completes (mutations.map fun m => .txpoke m.1 m.2) s (Holds · t) := by
  induction mutations generalizing s held with
  | nil =>
    cases ht
    exact .nil h
  | cons m mutations ih =>
    simp only [applyMutations] at ht
    split at ht
    next loaded => exact (h.completes_txpoke m.2 loaded).append fun _ hu => ih hu ht
    · cases ht

end Loading

/-- The operations build `f`: the frame is in TXB, stamped, its fold in ACC, and the receive and decoder
states are as they were. -/
def BuildsFrame (is : List Instr) (s : State) (f : List Byte) : Prop :=
  ∃ t, execAll is s = .next t ∧ t.txFrame = f ∧
    t.txlen.toNat = f.length ∧ t.txvalid = true ∧ t.acc = fold (f.take (f.length - 2)) ∧
    t = { s with
      txb := t.txb, txlen := t.txlen, txvalid := true, acc := t.acc, responses := t.responses }

theorem Completes.buildsFrame {is : List Instr} {s : State} {covered : List Byte}
    (h : Completes is s (Built covered)) :
    BuildsFrame is s (withPair covered) := by
  obtain ⟨t, ht, hst, hframe, hacc, hvalid⟩ := h
  refine ⟨t, ht, hframe, ?_, hvalid, ?_, hvalid ▸ hst⟩
  · rw [← hframe, State.txFrame, length_slice, Nat.sub_zero]
  · rw [withPair_covered, hacc]

/-- Settles O50: load the template, poke the mutations, stamp. -/
theorem buildFixedSequenceBuildsFrame : Obligations.BuildFixedSequenceBuildsFrame := by
  intro template mutations f s hm h
  obtain ⟨t, hmutated, hstamped⟩ := buildFixed_eq_some h
  obtain ⟨long, rfl⟩ := stampBytes_eq_some hstamped
  have room : template.length ≤ 255 := applyMutations_length hmutated ▸ (stampBytes_length hstamped).2.1
  have hbuilt : Completes (buildFixedSequence template mutations) s (Built (t.take (t.length - 2))) :=
    (completes_loadSequence hm room).append fun _ hload =>
      (hload.completes_txpokes hmutated).append fun _ hpoked => hpoked.completes_txstamp long
  exact hbuilt.buildsFrame

/-- Settles O51: load header and payload, seal. -/
theorem buildEnvelopeSequenceBuildsFrame : Obligations.BuildEnvelopeSequenceBuildsFrame := by
  intro header payload f s hm h
  obtain ⟨long, room, rfl⟩ := buildEnvelope_eq_some h
  have hbuilt : Completes (buildEnvelopeSequence header payload) s (Built (withLength (header ++ payload))) :=
    (completes_loadSequence hm (by omega)).append fun _ hload => hload.completes_txseal long room
  exact hbuilt.buildsFrame

end Sys2Proof.Machine
end

section
/-! The laws of the fold and of the pair (R90, R91, R92). -/

namespace Sys2Proof.Machine

theorem xor_cancel_left (x y : Byte) : x ^^^ (x ^^^ y) = y := by
  rw [← BitVec.xor_assoc, BitVec.xor_self, BitVec.zero_xor]

@[simp] theorem fold_singleton (x : Byte) : fold [x] = x :=
  (fold_cons x []).trans BitVec.xor_zero

theorem fold_append (s t : List Byte) : fold (s ++ t) = fold s ^^^ fold t := by
  induction s with
  | nil => exact BitVec.zero_xor.symm
  | cons x s ih => rw [List.cons_append, fold_cons, fold_cons, ih, BitVec.xor_assoc]

theorem fold_perm {s t : List Byte} (h : s.Perm t) : fold s = fold t := by
  induction h with
  | nil => rfl
  | cons x _ ih => rw [fold_cons, fold_cons, ih]
  | swap x y s => simp only [fold_cons, ← BitVec.xor_assoc, BitVec.xor_comm y x]
  | trans _ _ ihst ihtu => exact ihst.trans ihtu

/-- Each bit of the fold is the exclusive-or of that bit of the bytes. -/
theorem getLsbD_fold (s : List Byte) (k : Nat) :
    (fold s).getLsbD k = (s.map fun x => x.getLsbD k).foldl Bool.xor false := by
  induction s using List.reverseRecOn with
  | nil => exact BitVec.getLsbD_zero
  | append_singleton s x ih =>
    rw [fold_concat, BitVec.getLsbD_xor, ih, List.map_append, List.foldl_append]
    rfl

/-- Setting a byte changes the fold by the difference of the old and the new byte. -/
theorem fold_set {s : List Byte} {i : Nat} (v : Byte) (hi : i < s.length) :
    fold (s.set i v) = fold s ^^^ (s.getD i 0 ^^^ v) := by
  induction s generalizing i with
  | nil => cases hi
  | cons x s ih =>
    cases i with
    | zero =>
      rw [List.set_cons_zero, List.getD_cons_zero, fold_cons, fold_cons, BitVec.xor_comm x (fold s),
        BitVec.xor_assoc, xor_cancel_left, BitVec.xor_comm]
    | succ i =>
      rw [List.set_cons_succ, List.getD_cons_succ, fold_cons, fold_cons, ih (Nat.lt_of_succ_lt_succ hi),
        BitVec.xor_assoc]

theorem fold_set_ne {s : List Byte} {i : Nat} {v : Byte} (hi : i < s.length) (hv : v ≠ s.getD i 0) :
    fold (s.set i v) ≠ fold s := by
  intro h
  have hzero : s.getD i 0 ^^^ v = 0 := by
    simpa [fold_set v hi] using h
  exact hv (BitVec.xor_eq_zero_iff.1 hzero).symm

/-- A difference put into a byte is the difference of the folds. -/
theorem fold_set_xor {s : List Byte} {i : Nat} (d : Byte) (hi : i < s.length) :
    fold (s.set i (s.getD i 0 ^^^ d)) = fold s ^^^ d := by
  rw [fold_set _ hi, xor_cancel_left]

theorem fold_set_xor_set_xor {s : List Byte} {i j : Nat} (d : Byte) (hi : i < s.length) (hj : j < s.length)
    (hij : i ≠ j) :
    fold ((s.set i (s.getD i 0 ^^^ d)).set j (s.getD j 0 ^^^ d)) = fold s := by
  have hkept : (s.set i (s.getD i 0 ^^^ d)).getD j 0 = s.getD j 0 := by
    rw [List.getD, List.getElem?_set_ne hij, List.getD]
  rw [← hkept, fold_set_xor d (by simpa using hj), fold_set_xor d hi, BitVec.xor_assoc, BitVec.xor_self,
    BitVec.xor_zero]

/-- The two bytes of a pair are complements of each other. -/
theorem pair_xor (s : List Byte) : (pair s).1 ^^^ (pair s).2 = 0xFF := by
  rw [pair_fst, pair_snd, xor_cancel_left]

theorem pair_ne (s : List Byte) : (pair s).1 ≠ (pair s).2 := by
  intro h
  have hxor := pair_xor s
  rw [h, BitVec.xor_self] at hxor
  exact absurd hxor (by decide)

/-- Bytes followed by their own fold fold to zero. -/
theorem fold_append_pair_fst (s : List Byte) : fold (s ++ [(pair s).1]) = 0x00 := by
  rw [fold_concat, pair_fst]
  exact BitVec.xor_self

theorem fold_withPair (s : List Byte) : fold (withPair s) = (pair s).2 := by
  rw [withPair, fold_append, fold_cons, fold_singleton, pair_fst, pair_snd, xor_cancel_left]

/-- Settles O14: by the laws above. -/
theorem foldAndPairLaws : Obligations.FoldAndPairLaws :=
  ⟨fold_nil, fold_concat, getLsbD_fold, fun s => ⟨(pair_snd s).symm, pair_fst s⟩, fold_append,
    fun _ _ => fold_perm, fun s => (fold_append s s).trans BitVec.xor_self, fold_singleton,
    fun s => ⟨pair_xor s, pair_ne s⟩, fun s => ⟨fold_append_pair_fst s, fold_withPair s⟩,
    fun _ _ _ => fold_set_ne, fun _ _ _ => fold_set_xor_set_xor⟩

end Sys2Proof.Machine
end

section
/-! The words of the checksum operations and what the block answers to them (R93, R94, R95). -/

namespace Sys2Proof

/-- A word without a second operand is its `op` value and its operand, shifted into place (R70). -/
theorem commandWord_zero (op a : Byte) :
    commandWord op a 0x00 = (op.setWidth 24 <<< 16) ||| (a.setWidth 24 <<< 8) := by
  apply BitVec.eq_of_getLsbD_eq
  intro i hi
  rw [getLsbD_commandWord, BitVec.getLsbD_or, BitVec.getLsbD_shiftLeft, BitVec.getLsbD_shiftLeft,
    BitVec.getLsbD_setWidth, BitVec.getLsbD_setWidth]
  split
  next hb => simp [hb, show i < 16 by omega]
  next hb =>
    split
    next ha => simp [hb, ha, hi, show i - 8 < 24 by omega]
    next ha => simp [hb, ha, hi, show i - 16 < 24 by omega, BitVec.getLsbD_of_ge a (i - 8) (by omega)]

end Sys2Proof

namespace Sys2Proof.Machine

theorem rejected_of_operands_ne_zero {op a b : Byte}
    (hop : op.toNat ∈ [0x02, 0x10, 0x12, 0x20, 0x23, 0x24, 0x30, 0x40]) (hne : a ≠ 0 ∨ b ≠ 0) :
    Rejected (commandWord op a b) := by
  obtain ⟨_, hrejected, _⟩ := unmatchedWordIsIllegalOp
  exact hrejected op a b hop hne

theorem rejected_of_second_ne_zero {op a b : Byte}
    (hop : op.toNat ∈ [0x01, 0x11, 0x21, 0x25, 0x31, 0x41]) (hne : b ≠ 0) : Rejected (commandWord op a b) := by
  obtain ⟨_, _, hrejected, _⟩ := unmatchedWordIsIllegalOp
  exact hrejected op a b hop hne

theorem exec_ckclr (s : State) :
    exec .ckclr s = .next (State.addResponse { s with acc := 0x00 } (okWord 0x00 0x00)) := rfl

theorem exec_ckupd (a : Byte) (s : State) :
    exec (.ckupd a) s =
      .next (State.addResponse { s with acc := s.acc ^^^ a } (okWord 0x00 (s.acc ^^^ a))) := rfl

theorem exec_ckrd (s : State) : exec .ckrd s = .next (s.addResponse (okWord s.acc (s.acc ^^^ 0xFF))) := rfl

/-- CKCLR and CKUPD of each byte leave the fold in ACC. -/
theorem execAll_ckclr_ckupd (bytes : List Byte) (s : State) :
    ∃ answers : List ResponseWord,
      execAll (.ckclr :: bytes.map .ckupd) s =
        .next { s with acc := fold bytes, responses := s.responses ++ answers } := by
  obtain ⟨answers, _, he⟩ := execAll_ckupd bytes (State.addResponse { s with acc := 0x00 } (okWord 0x00 0x00))
  refine ⟨okWord 0x00 0x00 :: answers, ?_⟩
  rw [execAll_cons _ (exec_ckclr s), he]
  simp [State.addResponse]

/-- Settles O11: an operation without operands, whose answer is the word 0. -/
theorem ckclrClearsAccumulator : Obligations.CkclrClearsAccumulator :=
  ⟨rfl, fun _ _ => rejected_of_operands_ne_zero (by decide), exec_ckclr⟩

/-- Settles O13: an operation without operands, whose answer is the pair of ACC. -/
theorem ckrdAnswersPair : Obligations.CkrdAnswersPair :=
  ⟨rfl, fun _ _ => rejected_of_operands_ne_zero (by decide), exec_ckrd⟩

/-- Settles O12: any order of the bytes has their fold. -/
theorem ckupdFoldsOneByte : Obligations.CkupdFoldsOneByte := by
  refine ⟨fun a => commandWord_zero 0x11 a, fun _ _ => rejected_of_second_ne_zero (by decide), exec_ckupd, ?_⟩
  intro bytes order s h
  obtain ⟨answers, he⟩ := execAll_ckclr_ckupd order s
  exact ⟨_, he, fold_perm h, rfl⟩

end Sys2Proof.Machine
end

section
/-! The frame builder's operations on one state: the word, the answer, the byte written, and what stays (R100 to
R103, R105, R106). -/

namespace Sys2Proof

/-- The second operand stands in the low byte of the word (R70). -/
theorem commandWord_or_second (op a b : Byte) :
    commandWord op a b = commandWord op a 0x00 ||| b.setWidth 24 := by
  apply BitVec.eq_of_getLsbD_eq
  intro i hi
  rw [BitVec.getLsbD_or, getLsbD_commandWord, getLsbD_commandWord, BitVec.getLsbD_setWidth]
  by_cases hb : i < 8
  · simp [hb, hi]
  · simp [hb, BitVec.getLsbD_of_ge b i (by omega)]

end Sys2Proof

namespace Sys2Proof.Machine

/-! What each operation does under its guard. -/

section Outcomes

variable {s : State} {n : Nat}

theorem exec_txpush_full (a : Byte) (full : s.txlen.toNat = 255) :
    exec (.txpush a) s = .next (s.addResponse (faultWord .frameTooLong)) :=
  ((execTxpush_cases a s).resolve_right fun ⟨room, _⟩ => by omega).2

theorem exec_txpush_room (a : Byte) (room : s.txlen.toNat < 255) :
    exec (.txpush a) s =
      .next (State.addResponse
        { s with txb := Memory.write s.txb s.txlen.toNat a, txlen := s.txlen + 1, txvalid := false }
        (okWord 0x00 (s.txlen + 1))) :=
  ((execTxpush_cases a s).resolve_left fun ⟨full, _⟩ => by omega).2

theorem exec_txpoke_outside {a : Byte} (b : Byte) (outside : s.txlen.toNat ≤ a.toNat) :
    exec (.txpoke a b) s = .next (s.addResponse (faultWord .badOffset)) :=
  ((execTxpoke_cases a b s).resolve_right fun ⟨loaded, _⟩ => by omega).2

theorem exec_txpoke_loaded {a : Byte} (b : Byte) (loaded : a.toNat < s.txlen.toNat) :
    exec (.txpoke a b) s =
      .next (State.addResponse { s with txb := Memory.write s.txb a.toNat b, txvalid := false }
        (okWord 0x00 0x00)) :=
  ((execTxpoke_cases a b s).resolve_left fun ⟨outside, _⟩ => by omega).2

theorem exec_txrd_outside {a : Byte} (outside : s.txlen.toNat ≤ a.toNat) :
    exec (.txrd a) s = .next (s.addResponse (faultWord .badOffset)) :=
  ((execTxrd_cases a s).resolve_right fun ⟨loaded, _⟩ => by omega).2

theorem exec_txrd_loaded {a : Byte} (loaded : a.toNat < s.txlen.toNat) :
    exec (.txrd a) s = .next (s.addResponse (okWord 0x00 (Memory.read s.txb a.toNat))) :=
  ((execTxrd_cases a s).resolve_left fun ⟨outside, _⟩ => by omega).2

theorem exec_txstamp_short (short : s.txlen.toNat < 2) :
    exec .txstamp s = .next (s.addResponse (faultWord .frameTooShort)) :=
  ((execTxstamp_cases s).resolve_right fun ⟨long, _⟩ => by omega).2

theorem exec_txstamp_long (hn : s.txlen.toNat = n + 2) :
    exec .txstamp s = finishFrame n (fold (Memory.slice s.txb 0 n)) s := by
  have he := ((execTxstamp_cases s).resolve_left fun ⟨short, _⟩ => by omega).2
  rwa [hn, Nat.add_sub_cancel] at he

theorem exec_txseal_short (short : s.txlen.toNat < 2) :
    exec .txseal s = .next (s.addResponse (faultWord .frameTooShort)) := by
  rcases execTxseal_cases s with ⟨_, he⟩ | ⟨_, _⟩ | ⟨_, _, _⟩
  · exact he
  · omega
  · omega

theorem exec_txseal_full (full : 253 < s.txlen.toNat) :
    exec .txseal s = .next (s.addResponse (faultWord .frameTooLong)) := by
  rcases execTxseal_cases s with ⟨_, _⟩ | ⟨_, he⟩ | ⟨_, _, _⟩
  · omega
  · exact he
  · omega

theorem exec_txseal_room (long : 2 ≤ s.txlen.toNat) (room : s.txlen.toNat ≤ 253) :
    exec .txseal s =
      finishFrame s.txlen.toNat (fold (Memory.slice (injectLength s) 0 s.txlen.toNat))
        { s with txb := injectLength s, txlen := s.txlen + 2 } := by
  rcases execTxseal_cases s with ⟨_, _⟩ | ⟨_, _⟩ | ⟨_, _, he⟩
  · omega
  · omega
  · exact he

end Outcomes

/-! What a write, a pair and a length leave in the buffer. -/

section Contents

variable {m : Memory} {a j n : Nat}

theorem read_write_same (v : Byte) (hm : Memory.wf m = true) : Memory.read (Memory.write m a v) a = v :=
  (read_write a a v hm).trans (if_pos rfl)

theorem read_write_ne (v : Byte) (hm : Memory.wf m = true) (hj : j ≠ a) :
    Memory.read (Memory.write m a v) j = Memory.read m j :=
  (read_write a j v hm).trans (if_neg hj)

theorem read_writePair_fst (c : Byte) (hm : Memory.wf m = true) (hn : n + 1 < 255) :
    Memory.read (Memory.writePair m n c) n = c := by
  rw [read_writePair m n n c hm hn, if_neg (by omega), if_pos rfl]

theorem read_writePair_snd (c : Byte) (hm : Memory.wf m = true) (hn : n + 1 < 255) :
    Memory.read (Memory.writePair m n c) (n + 1) = c ^^^ 0xFF := by
  rw [read_writePair m n (n + 1) c hm hn, if_pos rfl]

theorem read_writePair_ne (c : Byte) (hm : Memory.wf m = true) (hn : n + 1 < 255) (h1 : j ≠ n)
    (h2 : j ≠ n + 1) : Memory.read (Memory.writePair m n c) j = Memory.read m j := by
  rw [read_writePair m n j c hm hn, if_neg h2, if_neg h1]

/-- The bytes under the pair stay. -/
theorem slice_writePair_covered (c : Byte) (hm : Memory.wf m = true) (hn : n + 1 < 255) :
    Memory.slice (Memory.writePair m n c) 0 n = Memory.slice m 0 n :=
  slice_congr fun i _ hi => read_writePair_ne c hm hn (by omega) (by omega)

/-- A pair written over itself changes nothing. -/
theorem writePair_writePair (c : Byte) (hm : Memory.wf m = true) (hn : n + 1 < 255) :
    Memory.writePair (Memory.writePair m n c) n c = Memory.writePair m n c := by
  have hform := wf_writePair c hm hn
  refine memory_ext (wf_writePair c hform hn) hform fun j => ?_
  rw [read_writePair _ n j c hform hn, read_writePair m n j c hm hn]
  split
  · rfl
  · split <;> rfl

/-- The bytes a seal covers: the total size stands at byte 1 (R105). -/
theorem slice_injectLength {s : State} (hm : Memory.wf s.txb = true) (hn : 2 ≤ n) :
    Memory.slice (injectLength s) 0 n = [Memory.read s.txb 0, s.txlen + 2] ++ Memory.slice s.txb 2 n := by
  rw [injectLength, slice_write _ hm, slice_cons s.txb 0 n (by omega), slice_cons s.txb 1 n (by omega)]
  rfl

end Contents

/-- Settles O16: nothing is loaded afterwards, so no offset is below TXLEN. -/
theorem txclrDiscardsFrame : Obligations.TxclrDiscardsFrame := by
  refine ⟨rfl, fun _ _ => rejected_of_operands_ne_zero (by decide), fun s => ⟨_, rfl, rfl, fun a => ?_⟩⟩
  exact exec_txrd_outside (Nat.zero_le a.toNat)

/-- Settles O17: below 255 loaded bytes TXLEN does not wrap, and the byte is written at its old value. -/
theorem txpushAppendsOneByte : Obligations.TxpushAppendsOneByte := by
  refine ⟨fun a => commandWord_zero 0x21 a, fun _ _ => rejected_of_second_ne_zero (by decide),
    fun a _ => exec_txpush_full a, fun a s hm room => ?_⟩
  have hlen : (s.txlen + 1).toNat = s.txlen.toNat + 1 := by bv_omega
  exact ⟨_, exec_txpush_room a room, rfl, hlen, read_write_same a hm, fun _ => read_write_ne a hm⟩

/-- Settles O18: the byte is written at the offset, or the offset is not below TXLEN. -/
theorem txpokeWritesLoadedByte : Obligations.TxpokeWritesLoadedByte := by
  refine ⟨fun a b => ?_, fun _ b _ => exec_txpoke_outside b, fun a b s hm loaded => ?_⟩
  · exact (commandWord_or_second 0x22 a b).trans (congrArg (· ||| b.setWidth 24) (commandWord_zero 0x22 a))
  · exact ⟨_, exec_txpoke_loaded b loaded, rfl, read_write_same b hm, fun _ => read_write_ne b hm⟩

/-- Settles O22: below TXLEN the byte of TXB is the byte of the loaded frame. -/
theorem txrdReadsLoadedByte : Obligations.TxrdReadsLoadedByte := by
  refine ⟨fun a => commandWord_zero 0x25 a, fun _ _ => rejected_of_second_ne_zero (by decide),
    fun _ _ => exec_txrd_outside, fun a s loaded => ?_⟩
  have hbyte : s.txFrame.getD a.toNat 0 = Memory.read s.txb a.toNat := by
    rw [State.txFrame, slice_getD _ _ _ _ _ (by omega), Nat.zero_add]
  rw [hbyte]
  exact exec_txrd_loaded loaded

/-- A second stamp covers the bytes the first one covered, so it writes the pair that stands there. -/
theorem writePair_fold_again {m : Memory} {n : Nat} (hm : Memory.wf m = true) (hn : n + 1 < 255) :
    Memory.writePair (Memory.writePair m n (fold (Memory.slice m 0 n))) n
        (fold (Memory.slice (Memory.writePair m n (fold (Memory.slice m 0 n))) 0 n)) =
      Memory.writePair m n (fold (Memory.slice m 0 n)) := by
  rw [slice_writePair_covered _ hm hn, writePair_writePair _ hm hn]

/-- Settles O19: the pair is written at `n` and `n + 1`, above the bytes it covers. -/
theorem txstampWritesPair : Obligations.TxstampWritesPair := by
  refine ⟨rfl, fun _ _ => rejected_of_operands_ne_zero (by decide), fun _ => exec_txstamp_short,
    fun s n hm hn => ?_⟩
  have hfits : n + 1 < 255 := by omega
  have hcovered : fold (Memory.slice s.txb 0 n) = fold (s.txFrame.take n) := by
    rw [State.txFrame, slice_take _ _ _ (by omega)]
  refine ⟨_, _, exec_txstamp_long hn, hcovered, rfl, read_writePair_fst _ hm hfits,
    read_writePair_snd _ hm hfits, fun _ => read_writePair_ne _ hm hfits, ?_⟩
  exact ⟨_, exec_txstamp_long hn, writePair_fold_again hm hfits⟩

/-- Settles O21: the length goes to byte 1, then the pair of the bytes with it in place goes behind them. -/
theorem txsealInjectsLengthAndAppendsPair : Obligations.TxsealInjectsLengthAndAppendsPair := by
  refine ⟨rfl, fun _ _ => rejected_of_operands_ne_zero (by decide), fun _ => exec_txseal_short,
    fun _ => exec_txseal_full, ?_⟩
  rintro s n hm rfl long room
  have hfits : s.txlen.toNat + 1 < 255 := by omega
  have hlen : (s.txlen + 2).toNat = s.txlen.toNat + 2 := by bv_omega
  have hform : Memory.wf (injectLength s) = true := wf_injectLength hm
  refine ⟨_, _, exec_txseal_room long room, hlen, congrArg fold (slice_injectLength hm long), rfl, ?_,
    read_writePair_fst _ hform hfits, read_writePair_snd _ hform hfits, fun j h1 hn hn1 => ?_⟩
  · exact (read_writePair_ne _ hform hfits (by omega) (by omega)).trans (read_write_same _ hm)
  · exact (read_writePair_ne _ hform hfits hn hn1).trans (read_write_ne _ hm h1)

end Sys2Proof.Machine
end

section
/-! A receive in which both replies come whole and the frame verifies: the three steps of RECV, and the frame
in RXB (R109, R120 to R125). -/

namespace Sys2Proof.Machine

/-! The three steps, one after the other. -/

section Steps

variable {s : State} {rest : List Input} {sof len : Byte} {r : List Byte}

theorem steps_of_step {t : State} (k : Nat) (h : step s = .next t) : steps (k + 1) s = steps k t := by
  simp only [steps, h]

/-- With a request outstanding and a reply in front, the reply is taken. -/
theorem nextInput_busy_reply (busy : s.rxstate ≠ .idle) (first : s.inputs = .external (.reply r) :: rest) :
    nextInput s.rxstate s.inputs = some (.external (.reply r), rest) := by
  rw [first]
  cases hs : s.rxstate with
  | idle => exact absurd hs busy
  | hdr | body => rfl

/-- RECV discards the held frame and asks for the header (R122). -/
theorem step_recv (idle : s.rxstate = .idle) (first : s.inputs = .command 0x300000 :: rest) :
    step s = .next (State.addRequest { s.discardFrame with rxstate := .hdr, inputs := rest } 2) :=
  (step_of_command (nextInput_idle_cons idle first)).trans (runCommand_ok _ (decodeInvertsEncode .recv rfl))

theorem headerReply_whole (long : 2 ≤ len.toNat) :
    headerReply [sof, len] s =
      .next (State.addRequest { storeHeader sof len s with rxstate := .body } (len.toNat - 2)) :=
  if_neg (Nat.not_lt.2 long)

/-- A whole header is stored, and the rest of the frame is asked for (R123). -/
theorem step_header (hdr : s.rxstate = .hdr) (first : s.inputs = .external (.reply [sof, len]) :: rest)
    (long : 2 ≤ len.toNat) :
    step s =
      .next (State.addRequest { storeHeader sof len s with rxstate := .body, inputs := rest }
        (len.toNat - 2)) := by
  rw [step_of_external (nextInput_busy_reply (by simp [hdr]) first)]
  simp only [externalStep, hdr]
  exact headerReply_whole long

theorem bodyReply_whole (full : r.length + 2 = (Memory.read s.rxb 1).toNat) :
    bodyReply r s = verifyFrame (Memory.read s.rxb 1) { s with rxb := Memory.writeList s.rxb 2 r } := by
  rcases bodyReply_cases r s with ⟨_, _⟩ | ⟨_, _, _⟩ | ⟨_, _, _⟩ | ⟨_, _, he⟩
  · omega
  · omega
  · omega
  · exact he

theorem verifyFrame_verified
    (verified : fold (Memory.slice s.rxb 0 (len.toNat - 2)) = Memory.read s.rxb (len.toNat - 2)) :
    verifyFrame len s =
      .next (State.addResponse
        { s with
          acc := fold (Memory.slice s.rxb 0 (len.toNat - 2)), rxlen := len, rxvalid := true, rxstate := .idle }
        (okWord 0x00 len)) :=
  ((verifyFrame_cases len s).resolve_right fun ⟨differs, _⟩ => differs verified).2

/-- A whole body is stored, and the frame is verified (R125). -/
theorem step_body (body : s.rxstate = .body) (first : s.inputs = .external (.reply r) :: rest)
    (hlen : Memory.read s.rxb 1 = len) (full : r.length + 2 = len.toNat) :
    step s = verifyFrame len { s with rxb := Memory.writeList s.rxb 2 r, inputs := rest } := by
  subst hlen
  rw [step_of_external (nextInput_busy_reply (by simp [body]) first)]
  simp only [externalStep, body]
  exact bodyReply_whole (s := { s with inputs := rest }) full

end Steps

/-- Bytes written from index 0 on are the front of the buffer. -/
theorem slice_writeList {m : Memory} {f : List Byte} (hm : Memory.wf m = true) (fits : f.length ≤ 255) :
    Memory.slice (Memory.writeList m 0 f) 0 f.length = f := by
  refine List.ext_getElem? fun i => ?_
  by_cases hi : i < f.length
  · rw [slice_getElem? _ _ _ _ (by omega), read_writeList _ hm (by simpa using fits), if_pos (by omega)]
    simp [hi]
  · rw [List.getElem?_eq_none (by simpa using hi), List.getElem?_eq_none (by omega)]

/-- `s` after a receive of the frame `f` that verifies, with the length byte `len`: `f` in RXB, its fold in ACC,
no classification, two requests and one answer (R120 to R125). -/
def State.afterReceive (s : State) (f : List Byte) (len : Byte) (rest : List Input) : State :=
  State.addResponse
    { s.discardFrame with
      rxb := Memory.writeList s.rxb 0 f, acc := fold (f.take (f.length - 2)), rxlen := len, rxvalid := true
      rxstate := .idle, inputs := rest, requests := s.requests ++ [2] ++ [f.length - 2] }
    (okWord 0x00 len)

/-- RECV and its two whole replies receive a frame that verifies (R126). -/
theorem steps_receive {s : State} {rest : List Input} {sof len : Byte} {r : List Byte}
    (hm : Memory.wf s.rxb = true) (idle : s.rxstate = .idle)
    (first : s.inputs =
      .command 0x300000 :: .external (.reply [sof, len]) :: .external (.reply r) :: rest)
    (full : (sof :: len :: r).length = len.toNat)
    (verified : fold ((sof :: len :: r).take (len.toNat - 2)) = (sof :: len :: r).getD (len.toNat - 2) 0x00) :
    steps 3 s = .next (s.afterReceive (sof :: len :: r) len rest) := by
  have hlen : r.length + 2 = len.toNat := full
  have hfits := len.isLt
  have hframe : Memory.slice (Memory.writeList s.rxb 0 (sof :: len :: r)) 0 len.toNat = sof :: len :: r :=
    full ▸ slice_writeList hm (by omega)
  have hcovered : Memory.slice (Memory.writeList s.rxb 0 (sof :: len :: r)) 0 (len.toNat - 2) =
      (sof :: len :: r).take (len.toNat - 2) := by
    rw [← slice_take _ len.toNat _ (Nat.sub_le _ _), hframe]
  have hchk : Memory.read (Memory.writeList s.rxb 0 (sof :: len :: r)) (len.toNat - 2) =
      (sof :: len :: r).getD (len.toNat - 2) 0x00 := by
    rw [← congrArg (List.getD · (len.toNat - 2) 0x00) hframe, slice_getD _ _ _ _ _ (by omega), Nat.zero_add]
  rw [← hcovered, ← hchk] at verified
  rw [steps_of_step 2 (step_recv idle first), steps_of_step 1 (step_header rfl rfl (by omega))]
  refine Eq.trans (steps_of_step 0 (Eq.trans
    (step_body rfl rfl (read_storeHeader_one sof len hm) hlen) (verifyFrame_verified verified))) ?_
  rw [State.afterReceive, full, ← hcovered]
  rfl

/-- Settles O48: R37 (e) says that the built frame verifies. -/
theorem builtFrameIsReceived : Obligations.BuiltFrameIsReceived := by
  intro s rest h idle hvalid hlength first
  obtain ⟨long, hchk, _⟩ := h.built hvalid
  have hframe : s.txFrame = Memory.read s.txb 0 :: s.txlen :: Memory.slice s.txb 2 s.txlen.toNat := by
    rw [State.txFrame, slice_cons _ _ _ (by omega), slice_cons _ _ _ (by omega), hlength]
  have hfull : s.txFrame.length = s.txlen.toNat := length_slice _ _ _
  have hverified : fold (s.txFrame.take (s.txlen.toNat - 2)) = s.txFrame.getD (s.txlen.toNat - 2) 0x00 := by
    rw [State.txFrame, slice_take _ _ _ (Nat.sub_le _ _), slice_getD _ _ _ _ _ (by omega), Nat.zero_add, hchk]
  have hsteps : steps 3 s = .next (s.afterReceive s.txFrame s.txlen rest) := by
    rw [hframe] at first hfull hverified ⊢
    exact steps_receive h.rxForm idle first hfull hverified
  have hreceived : (s.afterReceive s.txFrame s.txlen rest).rxFrame = s.txFrame := by
    have hslice := slice_writeList h.rxForm (f := s.txFrame) (by omega)
    rwa [hfull] at hslice
  exact ⟨_, hsteps, rfl, rfl, hreceived, rfl, hvalid, rfl⟩

end Sys2Proof.Machine
end

section
/-! The held command channel, and the replies the model refuses (R121, R130). -/

namespace Sys2Proof.Machine

section Busy

variable {s : State}

/-- With a request outstanding only an external event can be taken. -/
theorem nextInput_busy (busy : s.rxstate ≠ .idle) : nextInput s.rxstate s.inputs = firstExternal s.inputs := by
  cases hs : s.rxstate with
  | idle => exact absurd hs busy
  | hdr | body => rfl

theorem noInput_busy (busy : s.rxstate ≠ .idle) : noInput s = .refused .unansweredRequest := by
  cases hs : s.rxstate with
  | idle => exact absurd hs busy
  | hdr | body => simp only [noInput, hs]

end Busy

/-- Settles O7: the oldest external event stands behind the waiting commands, or nowhere. -/
theorem heldChannelTakesNoCommand : Obligations.HeldChannelTakesNoCommand := by
  refine fun s waiting busy => ⟨fun e rest first => ?event, fun first => ?commandsOnly⟩
  case event => exact step_of_external (by rw [nextInput_busy busy, first, firstExternal_commands])
  case commandsOnly =>
    refine (step_of_none ?_).trans (noInput_busy busy)
    rw [nextInput_busy busy, first, firstExternal_none]

section Replies

variable {s : State} {r : List Byte}

theorem externalStep_idle (idle : s.rxstate = .idle) : externalStep (.reply r) s = .next s := by
  simp only [externalStep, idle]

theorem externalStep_hdr (hdr : s.rxstate = .hdr) : externalStep (.reply r) s = headerReply r s := by
  simp only [externalStep, hdr]

theorem externalStep_body (body : s.rxstate = .body) : externalStep (.reply r) s = bodyReply r s := by
  simp only [externalStep, body]

theorem headerReply_overlong (overlong : 2 < r.length) : headerReply r s = .refused .overlongReply := by
  rcases headerReply_cases r s with ⟨_, _⟩ | ⟨_, _, rfl, _⟩ | ⟨_, _, rfl, _⟩ | ⟨_, he⟩
  · omega
  · simp at overlong
  · simp at overlong
  · exact he

theorem bodyReply_overlong (long : 2 ≤ (Memory.read s.rxb 1).toNat)
    (overlong : (Memory.read s.rxb 1).toNat - 2 < r.length) : bodyReply r s = .refused .overlongReply := by
  rcases bodyReply_cases r s with ⟨_, _⟩ | ⟨_, _, he⟩ | ⟨_, _, _⟩ | ⟨_, _, _⟩
  · omega
  · exact he
  · omega
  · omega

end Replies

/-- Settles O10: both reply steps test for more bytes than were asked for. -/
theorem overlongReplyIsRefused : Obligations.OverlongReplyIsRefused := by
  intro s r n asked overlong long
  cases hs : s.rxstate with
  | idle => exact absurd hs (busy_of_outstanding asked)
  | hdr =>
    cases (outstanding_hdr hs).symm.trans asked
    exact (externalStep_hdr hs).trans (headerReply_overlong overlong)
  | body =>
    cases (outstanding_body hs).symm.trans asked
    exact (externalStep_body hs).trans (bodyReply_overlong (long hs) overlong)

/-! Progress: what is not refused completes. -/

section Progress

variable {s : State} {r : List Byte}

theorem headerReply_completes (fits : r.length ≤ 2) : ∃ t, headerReply r s = .next t := by
  rcases headerReply_cases r s with ⟨_, he⟩ | ⟨_, _, _, _, he⟩ | ⟨_, _, _, _, he⟩ | ⟨overlong, _⟩
  · exact ⟨_, he⟩
  · exact ⟨_, he⟩
  · exact ⟨_, he⟩
  · omega

theorem verifyFrame_completes (len : Byte) : ∃ t, verifyFrame len s = .next t := by
  rcases verifyFrame_cases len s with ⟨_, he⟩ | ⟨_, he⟩
  · exact ⟨_, he⟩
  · exact ⟨_, he⟩

theorem bodyReply_completes (long : 2 ≤ (Memory.read s.rxb 1).toNat)
    (fits : r.length ≤ (Memory.read s.rxb 1).toNat - 2) : ∃ t, bodyReply r s = .next t := by
  rcases bodyReply_cases r s with ⟨_, _⟩ | ⟨_, _, _⟩ | ⟨_, _, he⟩ | ⟨_, _, he⟩
  · omega
  · omega
  · exact ⟨_, he⟩
  · exact he ▸ verifyFrame_completes _

/-- A reply within the transport's contract is not refused. -/
theorem externalStep_completes {e : External} (long : s.rxstate = .body → 2 ≤ (Memory.read s.rxb 1).toNat)
    (fits : ∀ n, s.outstanding = some n → ∀ r, e = .reply r → r.length ≤ n) :
    ∃ t, externalStep e s = .next t := by
  cases e with
  | hardReset => exact ⟨_, rfl⟩
  | reply r =>
    cases hs : s.rxstate with
    | idle => exact ⟨s, externalStep_idle hs⟩
    | hdr => exact externalStep_hdr hs ▸ headerReply_completes (fits 2 (outstanding_hdr hs) r rfl)
    | body => exact externalStep_body hs ▸ bodyReply_completes (long hs) (fits _ (outstanding_body hs) r rfl)

/-- With the contract kept, a block without an input to take is idle. -/
theorem TransportKeepsContract.idle_of_none (keeps : TransportKeepsContract s)
    (hnone : nextInput s.rxstate s.inputs = none) : s.rxstate = .idle := by
  by_contra busy
  rw [nextInput_busy busy] at hnone
  have answered : ∀ n, s.outstanding ≠ some n := fun n asked => by
    obtain ⟨e, rest, taken, _⟩ := keeps n asked
    cases hnone.symm.trans taken
  cases hs : s.rxstate with
  | idle => exact busy hs
  | hdr => exact answered _ (outstanding_hdr hs)
  | body => exact answered _ (outstanding_body hs)

/-- The reply that a step takes is no longer than was asked for. -/
theorem TransportKeepsContract.fits (keeps : TransportKeepsContract s) {e : External} {rest : List Input}
    (taken : nextInput s.rxstate s.inputs = some (.external e, rest)) {n : Nat}
    (asked : s.outstanding = some n) (h : e = .reply r) : r.length ≤ n := by
  rw [nextInput_busy (busy_of_outstanding asked)] at taken
  obtain ⟨e', rest', taken', fits⟩ := keeps n asked
  cases taken.symm.trans taken'
  exact fits r h

end Progress

/-- Settles O46: the contract excludes the two refusals, the invariants the fault. -/
theorem blockNeverStops : Obligations.BlockNeverStops := by
  intro s h keeps
  rcases step_cases s with
    ⟨hnone, he⟩ | ⟨e, rest, taken, he⟩ | ⟨w, rest, i, _, _, _, he⟩ | ⟨w, rest, e, _, _, _, he⟩
  · exact ⟨s, he.trans (noInput_idle (keeps.idle_of_none hnone))⟩
  · exact he ▸ externalStep_completes (s := { s with inputs := rest }) h.bodyLength
      fun _ asked _ => keeps.fits taken asked
  · obtain ⟨t, ht, _⟩ := everyOperationAnswersOnce i { s with inputs := rest }
    exact ⟨t, he.trans ht⟩
  · exact ⟨_, he⟩

end Sys2Proof.Machine
end

section
/-! RECV and RXRD: the words, and what the block answers to them (R122, R129). -/

namespace Sys2Proof.Machine

section Rxrd

variable {a : Byte} {s : State}

theorem exec_rxrd_noFrame (a : Byte) (empty : s.rxvalid = false) :
    exec (.rxrd a) s = .next (s.addResponse (faultWord .noFrame)) := by
  rcases execRxrd_cases a s with ⟨_, he⟩ | ⟨held, _⟩ | ⟨held, _⟩
  · exact he
  · cases empty.symm.trans held
  · cases empty.symm.trans held

theorem exec_rxrd_outside (held : s.rxvalid = true) (outside : s.rxlen.toNat ≤ a.toNat) :
    exec (.rxrd a) s = .next (s.addResponse (faultWord .badOffset)) := by
  rcases execRxrd_cases a s with ⟨empty, _⟩ | ⟨_, _, he⟩ | ⟨_, received, _⟩
  · cases empty.symm.trans held
  · exact he
  · omega

theorem exec_rxrd_received (held : s.rxvalid = true) (received : a.toNat < s.rxlen.toNat) :
    exec (.rxrd a) s = .next (s.addResponse (okWord 0x00 (Memory.read s.rxb a.toNat))) := by
  rcases execRxrd_cases a s with ⟨empty, _⟩ | ⟨_, outside, _⟩ | ⟨_, _, he⟩
  · cases empty.symm.trans held
  · omega
  · exact he

end Rxrd

/-- Settles O24: an operation without operands, whose meaning is the issue step. -/
theorem recvIssuesHeaderRead : Obligations.RecvIssuesHeaderRead :=
  ⟨rfl, fun _ _ => rejected_of_operands_ne_zero (by decide), fun _ => rfl⟩

/-- Settles O31: below RXLEN the byte of RXB is the byte of the validated frame. -/
theorem rxrdReadsValidatedByte : Obligations.RxrdReadsValidatedByte := by
  refine ⟨fun a => commandWord_zero 0x31 a, fun _ _ => rejected_of_second_ne_zero (by decide),
    fun a _ => exec_rxrd_noFrame a, fun _ _ => exec_rxrd_outside, fun a s held received => ?_⟩
  have hbyte : s.rxFrame.getD a.toNat 0 = Memory.read s.rxb a.toNat := by
    rw [State.rxFrame, slice_getD _ _ _ _ _ (by omega), Nat.zero_add]
  rw [hbyte]
  exact exec_rxrd_received held received

end Sys2Proof.Machine
end

section
/-! The ends of the two reply steps, and what they leave in RXB (R123, R124, R125). -/

namespace Sys2Proof.Machine

section Ends

variable {s : State} {r : List Byte} {sof len : Byte}

theorem headerReply_short (short : r.length < 2) :
    headerReply r s = .next (State.addResponse { s with rxstate := .idle } (faultWord .noReply)) := by
  rcases headerReply_cases r s with ⟨_, he⟩ | ⟨_, _, rfl, _⟩ | ⟨_, _, rfl, _⟩ | ⟨_, _⟩
  · exact he
  · simp at short
  · simp at short
  · omega

theorem headerReply_badLength (short : len.toNat < 2) :
    headerReply [sof, len] s =
      .next (State.addResponse { storeHeader sof len s with rxstate := .idle } (faultWord .badLength)) :=
  if_pos short

theorem bodyReply_short (short : r.length + 2 < (Memory.read s.rxb 1).toNat) :
    bodyReply r s = .next (State.addResponse { s with rxstate := .idle } (faultWord .noReply)) := by
  rcases bodyReply_cases r s with ⟨_, _⟩ | ⟨_, _, _⟩ | ⟨_, _, he⟩ | ⟨_, _, _⟩
  · omega
  · omega
  · exact he
  · omega

theorem verifyFrame_mismatch
    (differs : fold (Memory.slice s.rxb 0 (len.toNat - 2)) ≠ Memory.read s.rxb (len.toNat - 2)) :
    verifyFrame len s =
      .next (State.addResponse
        { s with acc := fold (Memory.slice s.rxb 0 (len.toNat - 2)), rxstate := .idle }
        (faultWord .checksumMismatch)) :=
  ((verifyFrame_cases len s).resolve_left fun ⟨verified, _⟩ => differs verified).2

theorem read_storeHeader_zero (hm : Memory.wf s.rxb = true) : Memory.read (storeHeader sof len s).rxb 0 = sof :=
  (read_write_ne len (wf_write sof hm (by decide)) (by decide)).trans (read_write_same sof hm)

theorem read_storeHeader_above {j : Nat} (hm : Memory.wf s.rxb = true) (hj : 2 ≤ j) :
    Memory.read (storeHeader sof len s).rxb j = Memory.read s.rxb j :=
  (read_write_ne len (wf_write sof hm (by decide)) (by omega)).trans (read_write_ne sof hm (by omega))

end Ends

/-- Settles O25: by the number of bytes, and then by the length byte. -/
theorem headerReplyStep : Obligations.HeaderReplyStep := by
  refine fun s hdr => ⟨fun r short => (externalStep_hdr hdr).trans (headerReply_short short),
    fun sof len hm => ?_⟩
  rw [externalStep_hdr hdr]
  have hsof := read_storeHeader_zero (sof := sof) (len := len) hm
  have hlen := read_storeHeader_one sof len hm
  have habove := fun j => read_storeHeader_above (sof := sof) (len := len) (j := j) hm
  by_cases short : len.toNat < 2
  · exact ⟨_, headerReply_badLength short, hsof, hlen, habove, fun _ => rfl, fun long => by omega⟩
  · exact ⟨_, headerReply_whole (by omega), hsof, hlen, habove, fun h => absurd h short, fun _ => rfl⟩

/-- The test of the parser on a whole frame: the fold of all bytes but the last two is the byte before the last
(R126). -/
def Verifies (f : List Byte) : Prop := fold (f.take (f.length - 2)) = f.getD (f.length - 2) 0x00

/-- The frame that the body reply `r` completes. -/
def State.assembled (s : State) (r : List Byte) : List Byte :=
  Memory.read s.rxb 0 :: Memory.read s.rxb 1 :: r

section Body

variable {s : State} {r : List Byte}

theorem read_body {j : Nat} (hm : Memory.wf s.rxb = true) (fits : r.length + 2 ≤ 255) :
    Memory.read (Memory.writeList s.rxb 2 r) j =
      if 2 ≤ j ∧ j < r.length + 2 then r.getD (j - 2) 0x00 else Memory.read s.rxb j := by
  rw [Nat.add_comm] at fits ⊢
  exact read_writeList j hm fits

/-- The body bytes stand behind the header in RXB. -/
theorem slice_body (hm : Memory.wf s.rxb = true) (fits : r.length + 2 ≤ 255) :
    Memory.slice (Memory.writeList s.rxb 2 r) 0 (r.length + 2) = s.assembled r := by
  refine List.ext_getElem? fun i => ?_
  by_cases hi : i < r.length + 2
  · rw [slice_getElem? _ _ _ _ hi, Nat.zero_add, read_body hm fits]
    rcases i with _ | _ | i
    · rfl
    · rfl
    · rw [if_pos (by omega)]
      simp [State.assembled, show i < r.length by omega]
  · rw [List.getElem?_eq_none (by simpa using hi), List.getElem?_eq_none (Nat.not_lt.1 hi)]

theorem fold_slice_body (hm : Memory.wf s.rxb = true) (fits : r.length + 2 ≤ 255) :
    fold (Memory.slice (Memory.writeList s.rxb 2 r) 0 r.length) = fold ((s.assembled r).take r.length) := by
  rw [← slice_body hm fits, slice_take _ _ _ (by omega)]

/-- The block's comparison is the test on the assembled frame. -/
theorem fold_slice_body_eq_iff (hm : Memory.wf s.rxb = true) (fits : r.length + 2 ≤ 255) :
    fold (Memory.slice (Memory.writeList s.rxb 2 r) 0 r.length) =
        Memory.read (Memory.writeList s.rxb 2 r) r.length ↔
      Verifies (s.assembled r) := by
  have hchk : (s.assembled r).getD r.length 0x00 = Memory.read (Memory.writeList s.rxb 2 r) r.length := by
    rw [← slice_body hm fits, slice_getD _ _ _ _ _ (by omega), Nat.zero_add]
  rw [fold_slice_body hm fits, ← hchk]
  rfl

theorem bodyReply_verified (hm : Memory.wf s.rxb = true) (full : r.length + 2 = (Memory.read s.rxb 1).toNat)
    (verified : Verifies (s.assembled r)) :
    bodyReply r s =
      .next (State.addResponse
        { s with
          rxb := Memory.writeList s.rxb 2 r, acc := fold ((s.assembled r).take r.length)
          rxlen := Memory.read s.rxb 1, rxvalid := true, rxstate := .idle }
        (okWord 0x00 (Memory.read s.rxb 1))) := by
  have hn : (Memory.read s.rxb 1).toNat - 2 = r.length := by omega
  have fits : r.length + 2 ≤ 255 := by omega
  rw [bodyReply_whole full, verifyFrame_verified (hn ▸ (fold_slice_body_eq_iff hm fits).2 verified), hn,
    fold_slice_body hm fits]

theorem bodyReply_mismatch (hm : Memory.wf s.rxb = true) (full : r.length + 2 = (Memory.read s.rxb 1).toNat)
    (differs : ¬ Verifies (s.assembled r)) :
    bodyReply r s =
      .next (State.addResponse
        { s with
          rxb := Memory.writeList s.rxb 2 r, acc := fold ((s.assembled r).take r.length), rxstate := .idle }
        (faultWord .checksumMismatch)) := by
  have hn : (Memory.read s.rxb 1).toNat - 2 = r.length := by omega
  have fits : r.length + 2 ≤ 255 := by omega
  rw [bodyReply_whole full, verifyFrame_mismatch (hn ▸ mt (fold_slice_body_eq_iff hm fits).1 differs), hn,
    fold_slice_body hm fits]

end Body

/-- Settles O26: the assembled frame is the front of RXB, and it verifies or not. -/
theorem bodyReplyStep : Obligations.BodyReplyStep := by
  refine fun s n body hlen => ⟨fun r short => ?_, fun r hm full => ?_⟩
  · exact (externalStep_body body).trans (bodyReply_short (by omega))
  · subst full
    rw [externalStep_body body]
    have fits : r.length + 2 ≤ 255 := by omega
    have habove : ∀ j, r.length + 2 ≤ j → Memory.read (Memory.writeList s.rxb 2 r) j = Memory.read s.rxb j :=
      fun j hj => by rw [read_body hm fits, if_neg (by omega)]
    by_cases verified : Verifies (s.assembled r)
    · exact ⟨_, _, _, bodyReply_verified hm hlen.symm verified, rfl, rfl, slice_body hm fits, habove,
        fun differs => absurd verified differs, fun _ => rfl⟩
    · exact ⟨_, _, _, bodyReply_mismatch hm hlen.symm verified, rfl, rfl, slice_body hm fits, habove,
        fun _ => rfl, fun same => absurd same verified⟩

end Sys2Proof.Machine
end

section
/-! The pure `read_response`: its five results, and which whole frames it accepts (R126, R131). -/

namespace Sys2Proof.Machine

section Results

variable {sof len : Byte} {tail r1 r2 : List Byte}

theorem readResponse_shortHeader (short : r1.length < 2) : readResponse r1 r2 = .error .noReply := by
  rcases r1 with _ | ⟨sof, _ | ⟨len, tail⟩⟩
  · rfl
  · rfl
  · simp at short

theorem readResponse_badLength (short : len.toNat < 2) :
    readResponse (sof :: len :: tail) r2 = .error .badLength :=
  if_pos short

theorem readResponse_shortBody (short : r2.length + 2 < len.toNat) :
    readResponse (sof :: len :: tail) r2 = .error .noReply :=
  (if_neg (by simp only [Config.minFrame]; omega)).trans (if_pos (by omega))

theorem length_take_body (long : 2 ≤ len.toNat) (enough : len.toNat ≤ r2.length + 2) :
    (r2.take (len.toNat - 2)).length + 2 = len.toNat := by
  rw [List.length_take]
  omega

/-- The test at the length byte is the test on the frame, whose length it is. -/
theorem verifies_iff_at_length {body : List Byte} (full : body.length + 2 = len.toNat) :
    Verifies (sof :: len :: body) ↔
      fold ((sof :: len :: body).take (len.toNat - 2)) = (sof :: len :: body).getD (len.toNat - 2) 0x00 := by
  rw [← full]
  rfl

theorem readResponse_verified (long : 2 ≤ len.toNat) (enough : len.toNat ≤ r2.length + 2)
    (verified : Verifies (sof :: len :: r2.take (len.toNat - 2))) :
    readResponse (sof :: len :: tail) r2 = .ok (sof :: len :: r2.take (len.toNat - 2)) :=
  (if_neg (Nat.not_lt.2 long)).trans <| (if_neg (by omega)).trans <|
    if_pos ((verifies_iff_at_length (length_take_body long enough)).1 verified)

theorem readResponse_mismatch (long : 2 ≤ len.toNat) (enough : len.toNat ≤ r2.length + 2)
    (differs : ¬ Verifies (sof :: len :: r2.take (len.toNat - 2))) :
    readResponse (sof :: len :: tail) r2 = .error .checksumMismatch :=
  (if_neg (Nat.not_lt.2 long)).trans <| (if_neg (by omega)).trans <|
    if_neg (mt (verifies_iff_at_length (length_take_body long enough)).2 differs)

end Results

/-- The results of `read_response`, in the order of their priority (R131). -/
inductive ReadResult (r1 r2 : List Byte) : Except StatusCode (List Byte) → Prop
  | shortHeader (short : r1.length < 2) : ReadResult r1 r2 (.error .noReply)
  | badLength (sof len tail) (isHeader : r1 = sof :: len :: tail) (short : len.toNat < 2) :
      ReadResult r1 r2 (.error .badLength)
  | shortBody (sof len tail) (isHeader : r1 = sof :: len :: tail) (short : r2.length + 2 < len.toNat) :
      ReadResult r1 r2 (.error .noReply)
  | mismatch (sof len tail body) (isHeader : r1 = sof :: len :: tail) (isBody : body = r2.take (len.toNat - 2))
      (full : body.length + 2 = len.toNat) (differs : ¬ Verifies (sof :: len :: body)) :
      ReadResult r1 r2 (.error .checksumMismatch)
  | frame (sof len tail body) (isHeader : r1 = sof :: len :: tail) (isBody : body = r2.take (len.toNat - 2))
      (full : body.length + 2 = len.toNat) (verified : Verifies (sof :: len :: body)) :
      ReadResult r1 r2 (.ok (sof :: len :: body))

theorem readResponse_result (r1 r2 : List Byte) : ReadResult r1 r2 (readResponse r1 r2) := by
  rcases r1 with _ | ⟨sof, _ | ⟨len, tail⟩⟩
  · exact .shortHeader (by simp)
  · exact .shortHeader (by simp)
  · by_cases badLength : len.toNat < 2
    · exact readResponse_badLength badLength ▸ .badLength sof len tail rfl badLength
    · by_cases short : r2.length + 2 < len.toNat
      · exact readResponse_shortBody short ▸ .shortBody sof len tail rfl short
      · have long : 2 ≤ len.toNat := by omega
        have enough : len.toNat ≤ r2.length + 2 := by omega
        have full := length_take_body long enough
        by_cases verified : Verifies (sof :: len :: r2.take (len.toNat - 2))
        · exact readResponse_verified long enough verified ▸ .frame sof len tail _ rfl rfl full verified
        · exact readResponse_mismatch long enough verified ▸ .mismatch sof len tail _ rfl rfl full verified

/-- A known result of `read_response` is one of the five, with its reason. -/
theorem readResult_of_eq {r1 r2 : List Byte} {o : Except StatusCode (List Byte)} (h : readResponse r1 r2 = o) :
    ReadResult r1 r2 o :=
  h ▸ readResponse_result r1 r2

/-! Whole frames. -/

/-- The byte at offset 1 is the length, of at least a header. -/
structure HasOwnLength (f : List Byte) : Prop where
  long : 2 ≤ f.length
  length : (f.getD 1 0).toNat = f.length

theorem HasOwnLength.exists_cons_cons {f : List Byte} (h : HasOwnLength f) :
    ∃ sof len body, f = sof :: len :: body ∧ body.length + 2 = len.toNat := by
  obtain ⟨long, hlen⟩ := h
  rcases f with _ | ⟨sof, _ | ⟨len, body⟩⟩
  · simp at long
  · simp at long
  · exact ⟨sof, len, body, rfl, hlen.symm⟩

/-- The frames accepted are those that have their own length and pass the test. -/
theorem accepted_iff {f : List Byte} : Accepted f ↔ HasOwnLength f ∧ Verifies f := by
  constructor
  · intro h
    cases readResult_of_eq h with
    | frame sof len tail body _ _ full verified => exact ⟨⟨by simp, full.symm⟩, verified⟩
  · rintro ⟨h, verified⟩
    obtain ⟨sof, len, body, rfl, full⟩ := h.exists_cons_cons
    have hbody : body.take (len.toNat - 2) = body := List.take_of_length_le (by omega)
    rw [← hbody] at verified
    exact (readResponse_verified (by omega) full.ge verified).trans (by rw [hbody])

theorem HasOwnLength.readResponse_mismatch {f : List Byte} (h : HasOwnLength f) (differs : ¬ Verifies f) :
    readResponse (f.take 2) (f.drop 2) = .error .checksumMismatch := by
  obtain ⟨sof, len, body, rfl, full⟩ := h.exists_cons_cons
  rw [← (List.take_of_length_le (by omega) : body.take (len.toNat - 2) = body)] at differs
  exact Machine.readResponse_mismatch (by omega) full.ge differs

/-- The other form of the test: all bytes but the last fold to zero (R126). -/
theorem verifies_iff_fold_eq_zero {f : List Byte} (long : 2 ≤ f.length) :
    Verifies f ↔ fold (f.take (f.length - 1)) = 0x00 := by
  have hn : f.length - 1 = (f.length - 2) + 1 := by omega
  have hlast : f.take (f.length - 1) = f.take (f.length - 2) ++ [f.getD (f.length - 2) 0x00] := by
    rw [hn, List.take_add_one, List.getD_eq_getElem?_getD, List.getElem?_eq_getElem (by omega)]
    rfl
  rw [hlast, fold_concat]
  exact BitVec.xor_eq_zero_iff.symm

theorem getD_set_ne {f : List Byte} {i j : Nat} (v : Byte) (h : i ≠ j) : (f.set i v).getD j 0 = f.getD j 0 := by
  rw [List.getD, List.getElem?_set_ne h, List.getD]

theorem getD_take {f : List Byte} {i n : Nat} (h : i < n) : (f.take n).getD i 0 = f.getD i 0 := by
  rw [List.getD, List.getElem?_take_of_lt h, List.getD]

/-- A frame keeps its own length when a byte other than the length byte is set. -/
theorem HasOwnLength.set {f : List Byte} (h : HasOwnLength f) {k : Nat} (v : Byte) (hk : k ≠ 1) :
    HasOwnLength (f.set k v) where
  long := by rw [List.length_set]; exact h.long
  length := by rw [getD_set_ne v hk, List.length_set]; exact h.length

/-- Setting one byte before the last changes the fold, so a frame that passes fails (R126). -/
theorem Verifies.not_set {f : List Byte} {k : Nat} {v : Byte} (h : Verifies f) (hk : k + 2 ≤ f.length)
    (hv : v ≠ f.getD k 0) : ¬ Verifies (f.set k v) := by
  have hzero := (verifies_iff_fold_eq_zero (by omega)).1 h
  rw [verifies_iff_fold_eq_zero (by rw [List.length_set]; omega), List.length_set, List.take_set, ← hzero]
  have hlt : k < f.length - 1 := by omega
  exact fold_set_ne (by rw [List.length_take]; omega) (by rwa [getD_take hlt])

/-- Two bytes before the last changed by one difference leave the fold, so the frame still passes (R126). -/
theorem Verifies.set_xor_set_xor {f : List Byte} {i j : Nat} (d : Byte) (h : Verifies f) (hi : i + 2 ≤ f.length)
    (hj : j + 2 ≤ f.length) (hij : i ≠ j) :
    Verifies ((f.set i (f.getD i 0 ^^^ d)).set j (f.getD j 0 ^^^ d)) := by
  rw [verifies_iff_fold_eq_zero (by omega)] at h
  rw [verifies_iff_fold_eq_zero (by simp only [List.length_set]; omega), List.length_set, List.length_set,
    List.take_set, List.take_set]
  have hi' : i < f.length - 1 := by omega
  have hj' : j < f.length - 1 := by omega
  rw [← getD_take hi', ← getD_take hj']
  exact (fold_set_xor_set_xor d (by rw [List.length_take]; omega) (by rw [List.length_take]; omega) hij).trans h

/-- Settles O28: by the two forms of the test and what a changed byte does to the fold. -/
theorem whatVerificationDetects : Obligations.WhatVerificationDetects := by
  refine ⟨fun f hlen long => ?forms, fun f k v h hk hk1 hv => ?single, fun f i j d h hi hj hi1 hj1 hij => ?double⟩
  case forms =>
    have haccepted : Accepted f ↔ Verifies f := accepted_iff.trans (and_iff_right ⟨long, hlen⟩)
    exact ⟨haccepted, haccepted.trans (verifies_iff_fold_eq_zero long)⟩
  case single =>
    obtain ⟨hown, verified⟩ := accepted_iff.1 h
    exact (hown.set v hk1).readResponse_mismatch (verified.not_set hk hv)
  case double =>
    obtain ⟨hown, verified⟩ := accepted_iff.1 h
    exact accepted_iff.2 ⟨(hown.set _ hi1).set _ hj1, verified.set_xor_set_xor d hi hj hij⟩

/-- The last byte is outside the test (R128). -/
theorem Verifies.set_last {f : List Byte} (h : Verifies f) (long : 2 ≤ f.length) (v : Byte) :
    Verifies (f.set (f.length - 1) v) := by
  rw [verifies_iff_fold_eq_zero long] at h
  rwa [verifies_iff_fold_eq_zero (by rwa [List.length_set]), List.length_set, List.take_set_of_le (Nat.le_refl _)]

/-- Bytes, their fold and any byte pass. -/
theorem verifies_append_fold (covered : List Byte) (last : Byte) : Verifies (covered ++ [fold covered, last]) := by
  have hlen : (covered ++ [fold covered, last]).length - 1 = covered.length + 1 := by simp
  have htake : (covered ++ [fold covered, last]).take (covered.length + 1) = covered ++ [(pair covered).1] :=
    List.take_length_add_append 1
  rw [verifies_iff_fold_eq_zero (by simp), hlen, htake, fold_append_pair_fst]

/-- Settles O29: neither the first nor the last byte decides the test. -/
theorem firstAndLastBytesUnchecked : Obligations.FirstAndLastBytesUnchecked := by
  refine ⟨fun f v h long => ?last, fun sof payload last room => ?first⟩
  case last =>
    obtain ⟨hown, verified⟩ := accepted_iff.1 h
    exact accepted_iff.2 ⟨hown.set v (by omega), verified.set_last hown.long v⟩
  case first =>
    refine ⟨_, accepted_iff.2 ⟨⟨by simp, ?_⟩, verifies_append_fold _ last⟩⟩
    have hlen : (BitVec.ofNat 8 (payload.length + 4)).toNat = payload.length + 4 := Nat.mod_eq_of_lt (by omega)
    simpa using hlen

/-- A transport read that brings what was asked for takes it from the front of the stream (R121). -/
theorem transportRead_full {stream : List Byte} {n arrived : Nat}
    (full : n ≤ (transportRead stream n arrived).1.length) :
    transportRead stream n arrived = (stream.take n, stream.drop n) := by
  have hmin : min n arrived = n := by
    rw [transportRead, List.length_take] at full
    omega
  rw [transportRead, hmin]

/-- Settles O30: both reads bring all that was asked for, so the frame is what they took. -/
theorem receiveConsumesOneFrame : Obligations.ReceiveConsumesOneFrame := by
  intro stream k1 k2 sof len f hheader hread
  have hfirst : transportRead stream 2 k1 = (stream.take 2, stream.drop 2) :=
    transportRead_full (by rw [hheader]; rfl)
  rw [hheader] at hread
  rw [hfirst] at hheader hread ⊢
  dsimp only at hheader hread ⊢
  cases readResult_of_eq hread with
  | frame sof' len' tail body isHeader isBody full _ =>
    cases isHeader
    have hsecond : transportRead (stream.drop 2) (len.toNat - 2) k2 =
        ((stream.drop 2).take (len.toNat - 2), (stream.drop 2).drop (len.toNat - 2)) :=
      transportRead_full (by
        rw [isBody, List.length_take] at full
        omega)
    rw [hsecond] at isBody ⊢
    have hlen : (sof :: len :: body).length = 2 + (len.toNat - 2) := by
      simp only [List.length_cons]
      omega
    have hbody : body = (stream.drop 2).take (len.toNat - 2) := by
      rw [isBody, List.take_take, Nat.min_self]
    refine ⟨?_, full, ?_⟩
    · rw [hlen, List.take_add, hheader, hbody]
      rfl
    · rw [hlen, ← List.drop_drop]

end Sys2Proof.Machine
end

section
/-! The three steps of RECV are `read_response` of the two replies (R120, R131). -/

namespace Sys2Proof.Machine

/-- `s` after a receive that ended with the fault `c`: no frame and no classification, the fault answered (R120). -/
def State.afterFailedReceive (s : State) (c : StatusCode) (rxb : Memory) (acc : Byte) (rest : List Input)
    (requests : List Nat) : State :=
  State.addResponse { s.discardFrame with rxb, acc, rxstate := .idle, inputs := rest, requests } (faultWord c)

/-- Within three steps the receive of `s` ends with the fault `c`, and ACC is written by ChecksumMismatch
alone. -/
def FailsReceive (s : State) (c : StatusCode) : Prop :=
  ∃ k rxb acc rest requests, k ≤ 3 ∧ steps k s = .next (s.afterFailedReceive c rxb acc rest requests) ∧
    (c ≠ .checksumMismatch → acc = s.acc)

/-- A first reply of at most two bytes is the header alone. -/
theorem eq_pair_of_length_le {r tail : List Byte} {sof len : Byte} (h : r = sof :: len :: tail)
    (fits : r.length ≤ 2) : r = [sof, len] := by
  subst h
  simpa using fits

theorem rxFrame_afterReceive {s : State} {f : List Byte} {len : Byte} {rest : List Input}
    (hm : Memory.wf s.rxb = true) (full : f.length = len.toNat) : (s.afterReceive f len rest).rxFrame = f := by
  have hfits := len.isLt
  have hslice := slice_writeList hm (f := f) (by omega)
  rwa [full] at hslice

section Failures

variable {s : State} {rest : List Input} {r1 r2 : List Byte} {sof len : Byte}

theorem step_headerReply {r : List Byte} (hdr : s.rxstate = .hdr) (first : s.inputs = .external (.reply r) :: rest) :
    step s = headerReply r { s with inputs := rest } :=
  (step_of_external (nextInput_busy_reply (by simp [hdr]) first)).trans (externalStep_hdr hdr)

theorem step_bodyReply {r : List Byte} (body : s.rxstate = .body) (first : s.inputs = .external (.reply r) :: rest) :
    step s = bodyReply r { s with inputs := rest } :=
  (step_of_external (nextInput_busy_reply (by simp [body]) first)).trans (externalStep_body body)

/-- A fault of the second step. -/
theorem failsReceive_of_header {c : StatusCode} {rxb : Memory} (idle : s.rxstate = .idle)
    (first : s.inputs = .command 0x300000 :: .external (.reply r1) :: rest)
    (he : headerReply r1 (State.addRequest { s.discardFrame with rxstate := .hdr, inputs := rest } 2) =
      .next (s.afterFailedReceive c rxb s.acc rest (s.requests ++ [2]))) :
    FailsReceive s c := by
  refine ⟨2, rxb, s.acc, rest, s.requests ++ [2], by decide, ?_, fun _ => rfl⟩
  rw [steps_of_step 1 (step_recv idle first), steps_of_step 0 ((step_headerReply rfl rfl).trans he)]
  rfl

/-- The block that waits for the body, its header received. -/
def State.awaitingBody (s : State) (sof len : Byte) (rest : List Input) : State :=
  State.addRequest
    (State.addRequest { storeHeader sof len s.discardFrame with rxstate := .body, inputs := rest } 2)
    (len.toNat - 2)

theorem assembled_awaitingBody (hm : Memory.wf s.rxb = true) (r : List Byte) :
    (s.awaitingBody sof len rest).assembled r = sof :: len :: r := by
  have hsof : Memory.read (storeHeader sof len s.discardFrame).rxb 0 = sof := read_storeHeader_zero hm
  have hlen : Memory.read (storeHeader sof len s.discardFrame).rxb 1 = len := read_storeHeader_one sof len hm
  exact congrArg₂ (fun a b => a :: b :: r) hsof hlen

/-- A fault of the third step. -/
theorem failsReceive_of_body {c : StatusCode} {rxb : Memory} {acc : Byte} {requests : List Nat}
    (idle : s.rxstate = .idle)
    (first : s.inputs =
      .command 0x300000 :: .external (.reply [sof, len]) :: .external (.reply r2) :: rest)
    (long : 2 ≤ len.toNat)
    (he : bodyReply r2 (s.awaitingBody sof len rest) = .next (s.afterFailedReceive c rxb acc rest requests))
    (hacc : c ≠ .checksumMismatch → acc = s.acc) : FailsReceive s c := by
  refine ⟨3, rxb, acc, rest, requests, by decide, ?_, hacc⟩
  rw [steps_of_step 2 (step_recv idle first), steps_of_step 1 (step_header rfl rfl long)]
  exact steps_of_step 0 ((step_bodyReply rfl rfl).trans he)

/-- Two replies within the transport's contract for which `read_response` gives a fault (R131). -/
theorem failsReceive_of_error {c : StatusCode} (hm : Memory.wf s.rxb = true) (idle : s.rxstate = .idle)
    (first : s.inputs = .command 0x300000 :: .external (.reply r1) :: .external (.reply r2) :: rest)
    (headerFits : r1.length ≤ 2) (bodyFits : ∀ sof len : Byte, r1 = [sof, len] → r2.length ≤ len.toNat - 2)
    (h : readResponse r1 r2 = .error c) : FailsReceive s c := by
  cases readResult_of_eq h with
  | shortHeader short => exact failsReceive_of_header idle first (headerReply_short short)
  | badLength sof len tail isHeader short =>
    obtain rfl := eq_pair_of_length_le isHeader headerFits
    exact failsReceive_of_header idle first (headerReply_badLength short)
  | shortBody sof len tail isHeader short =>
    obtain rfl := eq_pair_of_length_le isHeader headerFits
    have hlen : Memory.read (s.awaitingBody sof len rest).rxb 1 = len := read_storeHeader_one sof len hm
    exact failsReceive_of_body idle first (by omega) (bodyReply_short (by rwa [hlen])) fun _ => rfl
  | mismatch sof len tail body isHeader isBody full differs =>
    obtain rfl := eq_pair_of_length_le isHeader headerFits
    obtain rfl : body = r2 := isBody.trans (List.take_of_length_le (bodyFits sof len rfl))
    have hlen : Memory.read (s.awaitingBody sof len rest).rxb 1 = len := read_storeHeader_one sof len hm
    rw [← assembled_awaitingBody (rest := rest) hm] at differs
    exact failsReceive_of_body idle first (by omega)
      (bodyReply_mismatch (wf_storeHeader sof len hm) (by rw [hlen, full]) differs) fun hne => absurd rfl hne

end Failures

/-- Settles O27: `read_response` gives the frame of `steps_receive`, or the fault that ends the receive. -/
theorem receiveStepsComposeToReadResponse : Obligations.ReceiveStepsComposeToReadResponse := by
  intro s rest r1 r2 idle hm first headerFits bodyFits
  refine ⟨fun f h => ?received, fun c h => ?failed⟩
  case received =>
    cases readResult_of_eq h with
    | frame sof len tail body isHeader isBody full verified =>
      obtain rfl := eq_pair_of_length_le isHeader headerFits
      obtain rfl : body = r2 := isBody.trans (List.take_of_length_le (bodyFits sof len rfl))
      have hsteps := steps_receive hm idle first full ((verifies_iff_at_length full).1 verified)
      exact ⟨_, hsteps, rfl, rfl, full.symm, rxFrame_afterReceive hm full, rfl, rfl, rfl, rfl,
        List.append_assoc _ _ _, rfl, rfl, rfl⟩
  case failed =>
    obtain ⟨k, rxb, acc, rest', requests, hk, hsteps, hacc⟩ :=
      failsReceive_of_error hm idle first headerFits bodyFits h
    exact ⟨k, _, hk, hsteps, rfl, rfl, rfl, rfl, rfl, rfl, rfl, rfl, hacc⟩

end Sys2Proof.Machine
end

section
/-! The table of the codes (R141), the result byte (R32, R142), and the two operations that read the table: CLASSIFY
latches the classification of the held frame (R140, R142), EMLOOK answers the index of its operand (R143). -/

namespace Sys2Proof.Machine

/-- The codes of the table (R141). -/
def tabledCodes : List Nat := [0x00, 0x02, 0x03, 0x0F, 0x10, 0x11, 0x12, 0x13, 0x14, 0x15]

theorem meaning_of_untabled {code : Byte} (untabled : code.toNat ∉ tabledCodes) :
    meaningIndex code = 0xF ∧ meaningString code = "Unknown error code" := by
  simp only [tabledCodes, List.mem_cons, List.not_mem_nil, or_false, not_or] at untabled
  simp [meaningIndex, meaningString, untabled]

/-- Settles O33: the ten rows by computation, every other code by the default. -/
theorem meaningTable : Obligations.MeaningTable :=
  ⟨by decide, fun _ => meaning_of_untabled⟩

/-- The fields of the result byte do not overlap, so they add up (R142). -/
theorem resultByte_eq_add :
    ∀ (short : Bool) (mean : BitVec 4),
      resultByte short mean = BitVec.ofNat 8 ((if short then 128 else 0) + mean.toNat) := by
  decide

/-- Settles O36: an operation of one operand, whose answer has the index and no shape flag. -/
theorem emlookAnswersIndex : Obligations.EmlookAnswersIndex := by
  refine ⟨fun a => commandWord_zero 0x41 a, fun _ _ => rejected_of_second_ne_zero (by decide), fun a s => ?_⟩
  have hbyte : BitVec.ofNat 8 (meaningIndex a).toNat = resultByte false (meaningIndex a) := by
    simp [resultByte_eq_add]
  rw [hbyte]
  rfl

/-- The first matching case, with the cases before it excluded (R142). -/
theorem classifyRegisters_cases (s : State) :
    (s.rxlen = 11 ∧ Memory.read s.rxb 7 = 0x01 ∧ classifyRegisters s = (Memory.read s.rxb 8, false)) ∨
    (s.rxlen = 10 ∧ Memory.read s.rxb 5 = 0x01 ∧ classifyRegisters s = (Memory.read s.rxb 7, true)) ∨
    (¬(s.rxlen = 11 ∧ Memory.read s.rxb 7 = 0x01) ∧ ¬(s.rxlen = 10 ∧ Memory.read s.rxb 5 = 0x01) ∧
      classifyRegisters s = (0x00, false)) := by
  have hlen (n : Byte) : s.rxlen.toNat = n.toNat ↔ s.rxlen = n := BitVec.toNat_inj
  have hread : classifyRegisters s =
      if s.rxlen = 11 ∧ Memory.read s.rxb 7 = 0x01 then (Memory.read s.rxb 8, false)
      else if s.rxlen = 10 ∧ Memory.read s.rxb 5 = 0x01 then (Memory.read s.rxb 7, true)
      else (0x00, false) := by
    simp only [← hlen]
    rfl
  by_cases long : s.rxlen = 11 ∧ Memory.read s.rxb 7 = 0x01
  · exact .inl ⟨long.1, long.2, hread.trans (if_pos long)⟩
  · by_cases short : s.rxlen = 10 ∧ Memory.read s.rxb 5 = 0x01
    · exact .inr (.inl ⟨short.1, short.2, hread.trans ((if_neg long).trans (if_pos short))⟩)
    · exact .inr (.inr ⟨long, short, hread.trans ((if_neg long).trans (if_neg short))⟩)

section Classify

variable {s : State}

/-- The block with the classification of the held frame latched (R142). -/
def State.classified (s : State) : State :=
  { s with
    ecode := (classifyRegisters s).1, emean := meaningIndex (classifyRegisters s).1
    eshort := (classifyRegisters s).2, evalid := true }

/-- The word CLASSIFY answers for the held frame (R142). -/
def State.classification (s : State) : ResponseWord :=
  okWord (resultByte (classifyRegisters s).2 (meaningIndex (classifyRegisters s).1)) (classifyRegisters s).1

theorem exec_classify_noFrame (empty : s.rxvalid = false) :
    exec .classify s = .next (s.addResponse (faultWord .noFrame)) := by
  rcases execClassify_cases s with ⟨_, he⟩ | ⟨held, _⟩
  · exact he
  · cases empty.symm.trans held

theorem exec_classify_held (held : s.rxvalid = true) :
    exec .classify s = .next (s.classified.addResponse s.classification) := by
  rcases execClassify_cases s with ⟨empty, _⟩ | ⟨_, he⟩
  · cases empty.symm.trans held
  · exact he

/-- Latching the classification leaves the frame, so it is latched again unchanged. -/
theorem exec_classify_classified (held : s.rxvalid = true) (w : ResponseWord) :
    exec .classify (s.classified.addResponse w) =
      .next ((s.classified.addResponse w).addResponse s.classification) :=
  exec_classify_held (s := s.classified.addResponse w) held

end Classify

/-- Settles O34: the code and the flag are those CLASSIFY reads of RXB. -/
theorem classifyLatchesResult : Obligations.ClassifyLatchesResult := by
  refine ⟨rfl, fun _ _ => rejected_of_operands_ne_zero (by decide), fun _ => exec_classify_noFrame,
    fun s held => ⟨(classifyRegisters s).1, (classifyRegisters s).2, ?_, ?_⟩⟩
  · rw [← resultByte_eq_add]
    exact exec_classify_held held
  · rcases classifyRegisters_cases s with ⟨hlen, hmark, hr⟩ | ⟨hlen, hmark, hr⟩ | ⟨hlong, hshort, hr⟩
    · exact .inl ⟨hlen, hmark, congrArg Prod.fst hr, congrArg Prod.snd hr⟩
    · exact .inr (.inl ⟨hlen, hmark, congrArg Prod.fst hr, congrArg Prod.snd hr⟩)
    · exact .inr (.inr ⟨hlong, hshort, congrArg Prod.fst hr, congrArg Prod.snd hr⟩)

/-- Settles O35: what CLASSIFY reads of RXB is `classify` of the held frame, and the frame stays. -/
theorem classifyIsFunctionOfFrame : Obligations.ClassifyIsFunctionOfFrame := fun s held =>
  ⟨s.classified.addResponse s.classification, s.classification, exec_classify_held held,
    (classify_rxFrame s).symm, rfl, rfl, rfl, rfl, exec_classify_classified held s.classification⟩

end Sys2Proof.Machine
end

section
/-! The system operations: what the status registers answer (R32, R151), and that SRST leaves the state of a hard
reset (R152, R210). -/

namespace Sys2Proof.Machine

theorem rejected_of_statusRegister_above {a : Byte} (b : Byte) (above : 3 < a.toNat) :
    Rejected (commandWord 0x01 a b) := by
  obtain ⟨_, _, _, hrejected, _⟩ := unmatchedWordIsIllegalOp
  exact hrejected a b above

/-- The flags take the places 1, 2 and 4 of register 0 (R151). -/
theorem statusByte_eq_add :
    ∀ evalid rxvalid txvalid : Bool,
      statusByte evalid rxvalid txvalid =
        BitVec.ofNat 8 (txvalid.toNat + 2 * rxvalid.toNat + 4 * evalid.toNat) := by
  decide

/-- `resultByte_eq_add` with the flag as a number. -/
theorem resultByte_eq_toNat_add (short : Bool) (mean : BitVec 4) :
    resultByte short mean = BitVec.ofNat 8 (128 * short.toNat + mean.toNat) := by
  cases short <;> exact resultByte_eq_add _ mean

/-! The registers by number (R151). -/

theorem exec_strd_flags (s : State) :
    exec (.strd 0) s = .next (s.addResponse (okWord 0x00 (statusByte s.evalid s.rxvalid s.txvalid))) := rfl

theorem exec_strd_txlen (s : State) : exec (.strd 1) s = .next (s.addResponse (okWord 0x00 s.txlen)) := rfl

theorem exec_strd_rxlen (s : State) : exec (.strd 2) s = .next (s.addResponse (okWord 0x00 s.rxlen)) := rfl

theorem exec_strd_result (s : State) :
    exec (.strd 3) s = .next (s.addResponse (okWord (resultByte s.eshort s.emean) s.ecode)) := rfl

theorem exec_strd_above {a : Byte} (s : State) (above : 3 < a.toNat) :
    exec (.strd a) s = .next (s.addResponse (faultWord .illegalOp)) := by
  obtain ⟨n, hn⟩ := Nat.exists_eq_add_of_le' above
  simp only [exec, execStrd, hn]
  rfl

/-- Without a cached result its registers are zero, and so is register 3 (R34, R37, R151). -/
theorem exec_strd_result_of_evalid_eq_false {s : State} (hs : Inv s) (uncached : s.evalid = false) :
    exec (.strd 3) s = .next (s.addResponse (okWord 0x00 0x00)) := by
  obtain ⟨hcode, hmean, hshort⟩ := hs.noResult uncached
  rw [exec_strd_result, hcode, hmean, hshort]
  rfl

/-- Settles O37: the registers by number, with the fields of their bytes added up. -/
theorem strdReadsStatusRegisters : Obligations.StrdReadsStatusRegisters := by
  refine ⟨fun a => commandWord_zero 0x01 a, fun a b h => ?_, fun s => ⟨?_, exec_strd_txlen s, exec_strd_rxlen s, ?_,
    fun a => exec_strd_above s, exec_strd_result_of_evalid_eq_false⟩⟩
  · rcases h with hne | above
    · exact rejected_of_second_ne_zero (by decide) hne
    · exact rejected_of_statusRegister_above b above
  · rw [← statusByte_eq_add]
    exact exec_strd_flags s
  · rw [← resultByte_eq_toNat_add]
    exact exec_strd_result s

theorem exec_srst (s : State) : exec .srst s = .next (s.resetRegisters.addResponse (okWord 0x00 0x00)) := rfl

theorem externalStep_hardReset (s : State) : externalStep .hardReset s = .next s.resetRegisters := rfl

/-- What a reset of the registers keeps is the buffers and the channels (R210; log 11). -/
theorem resetRegisters_eq_reset (s : State) :
    s.resetRegisters =
      { State.reset with
        txb := s.txb, rxb := s.rxb, inputs := s.inputs, requests := s.requests, responses := s.responses } := rfl

/-- Settles O38: both resets are `State.resetRegisters`, and SRST answers the word 0 besides. -/
theorem srstEqualsHardReset : Obligations.SrstEqualsHardReset := by
  refine ⟨rfl, fun _ _ => rejected_of_operands_ne_zero (by decide), fun s =>
    ⟨_, _, exec_srst s, externalStep_hardReset s, rfl, ?_⟩⟩
  rw [resetRegisters_eq_reset]
  rfl

end Sys2Proof.Machine
end

section
/-! Reset: the values a hard reset and SRST leave, what the block answers from them, and how a receive ends without
a response (R210, R211, R212). -/

namespace Sys2Proof.Machine

/-- Settles O8: both resets are `State.resetRegisters`, whose values are the table's. -/
theorem resetLeavesTableValues : Obligations.ResetLeavesTableValues :=
  ⟨fun s => ⟨_, externalStep_hardReset s, rfl⟩, fun s => ⟨_, exec_srst s, rfl⟩,
    rfl, rfl, rfl, rfl, rfl, rfl, rfl, rfl, rfl, rfl⟩

/-- The registers that an answer depends on have their reset values; the buffers and the channels hold anything
(R210, R211). -/
structure RegistersReset (t : State) : Prop extends NoFrameHeld t where
  acc : t.acc = 0x00
  txlen : t.txlen = 0
  txvalid : t.txvalid = false

theorem registersReset_resetRegisters (s : State) : RegistersReset s.resetRegisters :=
  ⟨⟨rfl, rfl, rfl, rfl, rfl, rfl⟩, rfl, rfl, rfl⟩

/-- The response word SRST delivers is no register. -/
theorem RegistersReset.addResponse {s : State} (h : RegistersReset s) (w : ResponseWord) :
    RegistersReset (s.addResponse w) :=
  ⟨⟨h.rxvalid, h.rxlen, h.evalid, h.cleared⟩, h.acc, h.txlen, h.txvalid⟩

theorem registersReset_of_reset {s t : State} (h : externalStep .hardReset s = .next t ∨ exec .srst s = .next t) :
    RegistersReset t := by
  rcases h with hard | soft
  · cases (externalStep_hardReset s).symm.trans hard
    exact registersReset_resetRegisters s
  · cases (exec_srst s).symm.trans soft
    exact (registersReset_resetRegisters s).addResponse _

namespace RegistersReset

variable {t : State}

theorem exec_strd (h : RegistersReset t) {a : Byte} (ha : a.toNat < 4) :
    exec (.strd a) t = .next (t.addResponse (okWord 0x00 0x00)) := by
  have number : a = 0 ∨ a = 1 ∨ a = 2 ∨ a = 3 := by bv_omega
  rcases number with rfl | rfl | rfl | rfl
  · rw [exec_strd_flags, h.evalid, h.rxvalid, h.txvalid]
    rfl
  · rw [exec_strd_txlen, h.txlen]
  · rw [exec_strd_rxlen, h.rxlen]
  · obtain ⟨hcode, hmean, hshort⟩ := h.cleared
    rw [exec_strd_result, hcode, hmean, hshort]
    rfl

theorem exec_ckrd (h : RegistersReset t) : exec .ckrd t = .next (t.addResponse (okWord 0x00 0xFF)) := by
  rw [Machine.exec_ckrd, h.acc]
  rfl

theorem txlen_toNat (h : RegistersReset t) : t.txlen.toNat = 0 := congrArg BitVec.toNat h.txlen

theorem txlen_short (h : RegistersReset t) : t.txlen.toNat < 2 := by
  rw [h.txlen_toNat]
  decide

end RegistersReset

/-- Settles O39: with no byte loaded every offset is outside, and with no frame validated none is read. -/
theorem answersAfterReset : Obligations.AnswersAfterReset := by
  intro s t reset
  have h := registersReset_of_reset reset
  exact ⟨fun _ => h.exec_strd, h.exec_ckrd, fun a => exec_txrd_outside (h.txlen_toNat ▸ Nat.zero_le a.toNat),
    fun a => exec_rxrd_noFrame a h.rxvalid, exec_classify_noFrame h.rxvalid, exec_txstamp_short h.txlen_short,
    exec_txseal_short h.txlen_short⟩

theorem outstanding_idle {s : State} (idle : s.rxstate = .idle) : s.outstanding = none := by
  simp [State.outstanding, idle]

/-- Of the effects of a reply, the ends of the receive answer, and the request for the body does not end it
(R120). -/
theorem ReplyEffect.answers {s t : State} {r : List Byte} (h : ReplyEffect s r t) (busy : s.rxstate ≠ .idle)
    (ended : t.rxstate = .idle) : ∃ w, t.responses = s.responses ++ [w] := by
  cases h with
  | ignored idle => exact absurd idle busy
  | header => cases ended
  | noReply | badLength | mismatch | frame => exact ⟨_, rfl⟩

/-- Settles O9: a hard reset answers nothing, an idle block drops a reply, and a reply that ends a receive
answers. -/
theorem hardResetAbandonsReceive : Obligations.HardResetAbandonsReceive :=
  ⟨fun s _ => ⟨s.resetRegisters, externalStep_hardReset s, rfl, rfl, rfl, outstanding_idle rfl⟩,
    fun _ _ => externalStep_idle, fun _ _ _ busy h => (reply_effect h).answers busy⟩

end Sys2Proof.Machine
end
